-- ==== Sys2Proof/Word.lean ====
section
/-! DEFINITION. The word on the input port, the code on the output port, and the seven tags. -/

namespace Sys2Proof

/-- The input word: an opaque 32-bit pattern in the binary32 layout (10_state.md R18, 30_encoding.md R50). -/
abbrev Word := BitVec 32

/-- The code on the output port `tag_o[2:0]` (10_state.md R19, 30_encoding.md R52). -/
abbrev TagCode := BitVec 3

/-- A byte of a word as a host may keep it (20_memory.md R33). The block itself never sees bytes. -/
abbrev Byte := BitVec 8

/-- The seven classification tags, a closed set of mutually exclusive variants that carry no further data
(30_encoding.md R54), in the order of the spec's data model (R52). -/
inductive Tag where
  | positiveZero
  | negativeZero
  | normalizedNumber
  | denormalizedNumber
  | positiveInfinity
  | negativeInfinity
  | notANumber
  deriving DecidableEq, Repr

/-- Every tag, in the order of R52. -/
def Tag.all : List Tag :=
  [.positiveZero, .negativeZero, .normalizedNumber, .denormalizedNumber, .positiveInfinity, .negativeInfinity, .notANumber]

end Sys2Proof
end

