-- ==== Sys2Proof/Config.lean ====
section
/-! DEFINITION. What a build of the block fixes (00_scope.md R6, R7; 10_state.md R24). -/

namespace Sys2Proof

/-- The sizes of 00_scope.md R6 as a build may propose them: the elaboration check of 60_exceptions.md R113 is a
predicate on these, and only one value of them passes. -/
structure Params where
  /-- `W`, the width of the encoded value. -/
  width : Nat
  /-- `S_BITS`, the width of the sign field. -/
  sBits : Nat
  /-- `E_BITS`, the width of the exponent field. -/
  eBits : Nat
  /-- `M_BITS`, the width of the mantissa field. -/
  mBits : Nat
  /-- `E_SHIFT`, the right shift that brings the exponent field to bit 0. -/
  eShift : Nat
  /-- `S_SHIFT`, the right shift that brings the sign bit to bit 0. -/
  sShift : Nat
  /-- `E_MASK`, applied after the exponent shift. -/
  eMask : Nat
  /-- `M_MASK`, which keeps the mantissa. -/
  mMask : Nat
  /-- `E_ALL_ONES`, the exponent of infinities and NaNs. -/
  eAllOnes : Nat
  /-- `E_NORM_LO`, the least exponent of a normalized number. -/
  eNormLo : Nat
  /-- `E_NORM_HI`, the greatest exponent of a normalized number. -/
  eNormHi : Nat
  /-- `N_TAGS`, the number of tags. -/
  nTags : Nat
  deriving DecidableEq, Repr

/-- What a system can see of the platform that supplies the floating-point representation (60_exceptions.md R112,
70_reset_and_hazards.md R134). The block itself sees none of it (R113 part (2)). -/
structure Platform where
  /-- The width of the platform's float. -/
  width : Nat
  /-- The radix of its representation. -/
  base : Nat
  signedZero : Bool
  infinity : Bool
  quietNan : Bool
  signalingNan : Bool
  deriving DecidableEq, Repr

/-- The only way a build fails (60_exceptions.md R112): a static refusal, with no code and no record. It is no outcome
of a step, so it is kept apart from the machine's own Fault and Refusal. -/
inductive BuildRefusal where
  /-- `refuse_build("platform non-conformance")` (R113): raised by the elaboration check, before any input; safe. -/
  | platformNonConformance
  deriving DecidableEq, Repr

namespace Config

/-- The values of 00_scope.md R6, fixed by the source. -/
abbrev params : Params :=
  { width := 32, sBits := 1, eBits := 8, mBits := 23, eShift := 23, sShift := 31, eMask := 0xFF, mMask := 0x7FFFFF,
    eAllOnes := 255, eNormLo := 1, eNormHi := 254, nTags := 7 }

end Config

end Sys2Proof
end

