-- ==== Sys2Proof/Machine/Operands.lean ====
section
/-! DEFINITION. The bit-field extractor (40_field_extractor.md), the word rebuilt from its fields, and the code that a
tag has on the output port. These are all the operand forms the block has (30_encoding.md R56). -/

namespace Sys2Proof.Machine

/-- `REINTERPRET`: the identity on wires (R70). No numeric conversion happens here or anywhere (R76). -/
def reinterpret (valueI : Word) : Word := valueI

/-- `SIGN`: bit 0 of the logical shift by 31 (R71). -/
def sign (bits : Word) : BitVec 1 := (bits >>> Config.params.sShift).extractLsb' 0 1

/-- `EXPONENT`: bits 7..0 of the shift by 23 under the mask 0xFF; the raw field, no bias subtracted (R72, R87). -/
def exponent (bits : Word) : BitVec 8 :=
  ((bits >>> Config.params.eShift) &&& BitVec.ofNat 32 Config.params.eMask).extractLsb' 0 8

/-- `MANTISSA`: bits 22..0 under the mask 0x7FFFFF; the stored bits, no implicit bit added (R73, R87). -/
def mantissa (bits : Word) : BitVec 23 := (bits &&& BitVec.ofNat 32 Config.params.mMask).extractLsb' 0 23

/-- The word with the given fields, `{sign, exponent, mantissa}` (30_encoding.md R50, 40_field_extractor.md R74). -/
def pack (s : BitVec 1) (e : BitVec 8) (m : BitVec 23) : Word := s ++ e ++ m

/-- The low 31 bits, `bits & 0x7FFFFFFF`, as an unsigned integer (42_classifier.md R103). -/
def magnitude (bits : Word) : Nat := (bits &&& 0x7FFFFFFF#32).toNat

/-- `TAG_CODE` (30_encoding.md R52; the spec's own decision D3, log entry 11), applied at the port only (D20). -/
def tagCode : Tag → TagCode
  | .positiveZero => 0
  | .negativeZero => 1
  | .normalizedNumber => 2
  | .denormalizedNumber => 3
  | .positiveInfinity => 4
  | .negativeInfinity => 5
  | .notANumber => 6

end Sys2Proof.Machine
end

