-- ==== Sys2Proof/Syntax.lean ====
section
/-! DEFINITION. One evaluation of CLASSIFY as syntax: one constructor per row of the class map. -/

namespace Sys2Proof

/-- The rows of spec/opcode_table.json (30_encoding.md R57). The block has one operation and no opcode field (R55), so
which row a word takes is read from its data; an operand is a field of the word that the row leaves open (R50, R56;
log entry 7). -/
inductive Instr where
  /-- CLASSIFY.PZ, row 1: the word with no bit set (R91). -/
  | pz
  /-- CLASSIFY.NZ, row 2: the word with only the sign bit set (R92). -/
  | nz
  /-- CLASSIFY.DEN, row 3: exponent 0, mantissa not 0, either sign (R93). -/
  | den (sign : BitVec 1) (mantissa : BitVec 23)
  /-- CLASSIFY.PINF, row 4 (R94). -/
  | pinf
  /-- CLASSIFY.NINF, row 5 (R95). -/
  | ninf
  /-- CLASSIFY.NAN, row 6: exponent 255, mantissa not 0, either sign (R96). -/
  | nan (sign : BitVec 1) (mantissa : BitVec 23)
  /-- CLASSIFY.NORM, row 7: exponent 1 to 254, any mantissa, either sign (R97). -/
  | norm (sign : BitVec 1) (exponent : BitVec 8) (mantissa : BitVec 23)
  deriving DecidableEq, Repr

end Sys2Proof
end

