-- ==== Sys2Proof/WellFormed.lean ====
section
/-! DEFINITION. When a term of Instr is one the row it names can hold: the exact conditions of 30_encoding.md R57. -/

namespace Sys2Proof

/-- The operands lie where the row's exact condition puts them (30_encoding.md R57, rows 3, 6 and 7). Rows 1, 2, 4 and 5
have no operand. -/
def Instr.wf : Instr → Bool
  | .pz => true
  | .nz => true
  | .den _ mantissa => mantissa != 0#23
  | .pinf => true
  | .ninf => true
  | .nan _ mantissa => mantissa != 0#23
  | .norm _ exponent _ => decide (1 ≤ exponent.toNat) && decide (exponent.toNat ≤ 254)

end Sys2Proof
end

