-- ==== Sys2Proof/Decode.lean ====
section
/-! DEFINITION. The class map as `match`/`mask` rows (30_encoding.md R57, opcode_table.json), the decoder that takes the
first row a word hits (R58), and the encoder, written from the layout of the word alone (R50). -/

namespace Sys2Proof

open Sys2Proof.Machine

/-- A row of the class map in its widened form (R57, R58). -/
structure ClassRow where
  /-- 1 is tried first. -/
  priority : Nat
  /-- The `match` column. -/
  pattern : Word
  /-- The `mask` column. -/
  mask : Word
  tag : Tag
  deriving DecidableEq, Repr

/-- `(b & mask) == match` (R57). -/
def ClassRow.hits (r : ClassRow) (b : Word) : Bool := (b &&& r.mask) == r.pattern

/-- Row 1 (R91). -/
def rowPz : ClassRow := ⟨1, 0x00000000, 0xFFFFFFFF, .positiveZero⟩
/-- Row 2 (R92). -/
def rowNz : ClassRow := ⟨2, 0x80000000, 0xFFFFFFFF, .negativeZero⟩
/-- Row 3 (R93). -/
def rowDen : ClassRow := ⟨3, 0x00000000, 0x7F800000, .denormalizedNumber⟩
/-- Row 4 (R94). -/
def rowPinf : ClassRow := ⟨4, 0x7F800000, 0xFFFFFFFF, .positiveInfinity⟩
/-- Row 5 (R95). -/
def rowNinf : ClassRow := ⟨5, 0xFF800000, 0xFFFFFFFF, .negativeInfinity⟩
/-- Row 6 (R96). -/
def rowNan : ClassRow := ⟨6, 0x7F800000, 0x7F800000, .notANumber⟩
/-- Row 7 (R97). -/
def rowNorm : ClassRow := ⟨7, 0x00000000, 0x00000000, .normalizedNumber⟩

/-- The class map, in priority order (R57). -/
def classMap : List ClassRow := [rowPz, rowNz, rowDen, rowPinf, rowNinf, rowNan, rowNorm]

/-- The tag of the first row that `b` hits, as a table walk over R57's rows. -/
def firstHit (b : Word) : Option Tag := (classMap.find? (·.hits b)).map (·.tag)

/-- The decoder: rows are tried in priority order and the first hit wins (R58). It is total and has no invalid verdict
(R60); row 7 hits every word, so what the first six rows leave is row 7's. The row's open fields are the extractor's
(R56). -/
def decode (b : Word) : Instr :=
  if rowPz.hits b then .pz
  else if rowNz.hits b then .nz
  else if rowDen.hits b then .den (sign b) (mantissa b)
  else if rowPinf.hits b then .pinf
  else if rowNinf.hits b then .ninf
  else if rowNan.hits b then .nan (sign b) (mantissa b)
  else .norm (sign b) (exponent b) (mantissa b)

/-- Why a pattern is no input word at all. -/
inductive DecodeRefusal where
  /-- The pattern does not fit the port: the input is always exactly 32 bits (R63). Safe. -/
  | notThirtyTwoBits
  deriving DecidableEq, Repr

/-- The decoder on any number: a pattern that fits 32 bits is a word and decodes; one that does not is refused by name
(R63). -/
def decodeRaw (w : Nat) : Except DecodeRefusal Instr :=
  if w < 2 ^ Config.params.width then .ok (decode (BitVec.ofNat 32 w)) else .error .notThirtyTwoBits

/-- The input word that `nbits` given bits `w` stand for, every bit above them 0. DESIGN CHOICE (log entry 8): a number `w`
that does not fit in `nbits` bits is cut to its low `nbits` bits; and this cannot refuse, so of a pattern of more than 32
bits, which is no input word (R63), it keeps bits 31..0. -/
def tableWord (nbits w : Nat) : Word := BitVec.ofNat 32 (w % 2 ^ nbits)

/-- What the decoder reads from an instruction of the opcode table whose low `nbits` bits are `w`, the bits above them 0;
none for a width beyond the port's (R63). DESIGN CHOICE (log entry 8): it judges the width given and not the number, so a
number `w` that does not fit in `nbits` bits is cut to its low `nbits` bits and decoded, not refused. -/
def decodeTableWord (nbits w : Nat) : Option Instr :=
  if nbits ≤ Config.params.width then
    match decodeRaw (w % 2 ^ nbits) with
    | .ok i => some i
    | .error _ => none
  else none

/-- The encoder: the word whose fields are the row's fixed cells and the instruction's operands (R50, R57's pattern
column). -/
def encode : Instr → Word
  | .pz => pack 0#1 0#8 0#23
  | .nz => pack 1#1 0#8 0#23
  | .den s m => pack s 0#8 m
  | .pinf => pack 0#1 255#8 0#23
  | .ninf => pack 1#1 255#8 0#23
  | .nan s m => pack s 255#8 m
  | .norm s e m => pack s e m

end Sys2Proof
end

