-- ==== Sys2Proof/Machine/Flags.lean ====
section
/-! DEFINITION. The one-bit tests of the sign/exponent/mantissa decoder (41_field_decoder.md). They are nets, not flags:
the block has no flag, condition code or exception flag, and no evaluation records anything (10_state.md R13). All
comparisons are unsigned and on the full width of the field (R86). -/

namespace Sys2Proof.Machine

/-- `EXP_ZERO` (R80). -/
def expZero (e : BitVec 8) : Bool := e == 0#8

/-- `EXP_ONES` (R81). -/
def expOnes (e : BitVec 8) : Bool := e == BitVec.ofNat 8 Config.params.eAllOnes

/-- `EXP_MID`: both bounds included (R82). -/
def expMid (e : BitVec 8) : Bool :=
  decide (Config.params.eNormLo ≤ e.toNat) && decide (e.toNat ≤ Config.params.eNormHi)

/-- `MAN_ZERO`: the test is on the whole field; no mantissa bit is looked at alone (R83, 30_encoding.md R61). -/
def manZero (m : BitVec 23) : Bool := m == 0#23

end Sys2Proof.Machine
end

