-- ==== Sys2Proof/Machine/State.lean ====
section
/-! DEFINITION. The state of the machine that contains the block: the word its host drives and the codes its host has
read. The block holds nothing (10_state.md R10 to R17) and gives the state no field: `tag_o` and the nets of R21 are
functions of `valueI` (log entry 1). -/

namespace Sys2Proof.Machine

/-- What the host holds at one moment (10_state.md R18 to R20, R25). -/
structure State where
  /-- The input port `value_i` (R18): the word the host drives, which the block never writes (R22). -/
  valueI : Word
  /-- THE HOST'S OWN RECORD, no state of the block: the codes it has read from `tag_o`, the oldest first, which are the
  observable result of a program (95_test_vectors.md section 3; log entry 4). No definition of the block reads it. -/
  tagsRead : List TagCode
  deriving DecidableEq, Repr

/-- The block never faults (60_exceptions.md R110; 10_state.md R27): no constructor, so no step can answer a fault. -/
inductive Fault where
  deriving DecidableEq, Repr

/-- The block never refuses (60_exceptions.md R110). -/
inductive Refusal where
  /-- Raised by a row of the opcode table that has no meaning yet; every row has one, so nothing raises it. Safe. -/
  | notModelled (mnemonic : String)
  deriving DecidableEq, Repr

/-- The machine after power-up (10_state.md R25): the host drives the zero word, the spec's own example there but no value
it requires (DESIGN CHOICE, log entry 3), and has read nothing yet (log entry 4). -/
def State.reset : State := { valueI := 0x00000000#32, tagsRead := [] }

end Sys2Proof.Machine
end

