-- ==== Sys2Proof/Machine/Ops.lean ====
section
/-! DEFINITION. `Classify` as the decision table (42_classifier.md R90) and as the mux tree (R98), what the output port
shows, the host's operations on the two ports, and the one evaluation.

TAKING AN EXCEPTION and returning from one have no operation here because the block has neither: no trap entry saves,
changes or jumps anywhere (60_exceptions.md R118), no return restores anything (R119), no interrupt exists (R116), and no
input raises anything (R110, R111). Memory has no operation because the block has none (20_memory.md R30). -/

namespace Sys2Proof.Machine

/-- `Classify`: the decision table read top to bottom (R90). -/
def classify (valueI : Word) : Tag :=
  let bits := reinterpret valueI
  let s := sign bits
  let e := exponent bits
  let m := mantissa bits
  if e == 0#8 && m == 0#23 && s == 0#1 then .positiveZero
  else if e == 0#8 && m == 0#23 && s == 1#1 then .negativeZero
  else if e == 0#8 && m != 0#23 then .denormalizedNumber
  else if e == 255#8 && m == 0#23 && s == 0#1 then .positiveInfinity
  else if e == 255#8 && m == 0#23 && s == 1#1 then .negativeInfinity
  else if e == 255#8 && m != 0#23 then .notANumber
  else .normalizedNumber

/-- Level 3 of the mux tree for exponent 0 (42_classifier.md R98). -/
def zeroTag (s : BitVec 1) : Tag := if s == 0#1 then .positiveZero else .negativeZero

/-- Level 3 of the mux tree for exponent 255 (R98). -/
def infTag (s : BitVec 1) : Tag := if s == 0#1 then .positiveInfinity else .negativeInfinity

/-- Level 2 of the mux tree for exponent 0 (R98). -/
def loTag (s : BitVec 1) (manIsZero : Bool) : Tag := if manIsZero then zeroTag s else .denormalizedNumber

/-- Level 2 of the mux tree for exponent 255 (R98). -/
def hiTag (s : BitVec 1) (manIsZero : Bool) : Tag := if manIsZero then infTag s else .notANumber

/-- Level 1: the classification mux tree over the decoder's tests and the sign (R98). -/
def muxTree (s : BitVec 1) (expIsZero expIsOnes manIsZero : Bool) : Tag :=
  if expIsZero then loTag s manIsZero else if expIsOnes then hiTag s manIsZero else .normalizedNumber

/-- The tag of three fields: the decoder's tests (41_field_decoder.md R80, R81, R83) into the mux tree (R98). -/
def tagOfFields (s : BitVec 1) (e : BitVec 8) (m : BitVec 23) : Tag := muxTree s (expZero e) (expOnes e) (manZero m)

/-- What `tag_o[2:0]` shows: the code of the present input's tag and of nothing else (10_state.md R10, R19, R27). -/
def State.tagO (st : State) : TagCode := tagCode (classify st.valueI)

/-- The word on the input port, as its encoding (10_state.md R15, 40_field_extractor.md R70). -/
def State.inputWord (st : State) : Word := reinterpret st.valueI

/-- The host drives `value_i` with a word (R144). The output follows at once, as in any model without time (R39, R131;
log entry 2). -/
def State.drive (w : Word) (st : State) : State := { st with valueI := w }

/-- Only the bits of `w` under `mask` have arrived on `value_i`; the port holds a mixture (70_reset_and_hazards.md R140,
20_memory.md R36; log entry 17). -/
def State.driveBits (mask w : Word) (st : State) : State := st.drive ((st.valueI &&& ~~~mask) ||| (w &&& mask))

/-- The host records a code it has read. -/
def State.note (c : TagCode) (st : State) : State := { st with tagsRead := st.tagsRead ++ [c] }

/-- The host reads `tag_o` (R144). Reading has no effect on the block (20_memory.md R36). -/
def State.read (st : State) : State := st.note st.tagO

/-- Power returns with the host driving `w`. The block has nothing to retain or lose (60_exceptions.md R126), no reset
(70_reset_and_hazards.md R130) and, without time, no power-up phase (R131; log entry 19). -/
def State.powerCycle (w : Word) (st : State) : State := st.drive w

/-- One call CLASSIFY on the word of three fields (00_scope.md R3, R9; 30_encoding.md R64): the host presents the word, the
decoder and the mux tree give the tag, and the host reads its code. Every meaning is this on its own row's fields. It
writes the host's two items only; the block has nothing to write but its output (42_classifier.md R104). -/
def evaluate (s : BitVec 1) (e : BitVec 8) (m : BitVec 23) (st : State) : State :=
  (st.drive (pack s e m)).note (tagCode (tagOfFields s e m))

end Sys2Proof.Machine
end

