-- ==== Sys2Proof/Machine/Classifier.lean ====
section
/-! DEFINITION. The meaning of each row of the class map, and `Classify` in the spec's other forms: the rows' exact
conditions (42_classifier.md R91 to R97), the magnitude form (R103) and the bit equations (R98). A meaning is the call
CLASSIFY on its row's word (30_encoding.md R64); it never reads the state to find the tag (R101). -/

namespace Sys2Proof.Machine

/-- CLASSIFY.PZ: exponent 0, mantissa 0, sign 0 (R91). -/
def execPz (st : State) : Host.Outcome State Fault Refusal := .next (evaluate 0#1 0#8 0#23 st)

/-- CLASSIFY.NZ: exponent 0, mantissa 0, sign 1 (R92). -/
def execNz (st : State) : Host.Outcome State Fault Refusal := .next (evaluate 1#1 0#8 0#23 st)

/-- CLASSIFY.DEN: exponent 0 and the word's own sign and mantissa (R93). -/
def execDen (s : BitVec 1) (m : BitVec 23) (st : State) : Host.Outcome State Fault Refusal := .next (evaluate s 0#8 m st)

/-- CLASSIFY.PINF: exponent 255, mantissa 0, sign 0 (R94). -/
def execPinf (st : State) : Host.Outcome State Fault Refusal := .next (evaluate 0#1 255#8 0#23 st)

/-- CLASSIFY.NINF: exponent 255, mantissa 0, sign 1 (R95). -/
def execNinf (st : State) : Host.Outcome State Fault Refusal := .next (evaluate 1#1 255#8 0#23 st)

/-- CLASSIFY.NAN: exponent 255 and the word's own sign and mantissa; quiet and signaling alike, no flag (R96). -/
def execNan (s : BitVec 1) (m : BitVec 23) (st : State) : Host.Outcome State Fault Refusal := .next (evaluate s 255#8 m st)

/-- CLASSIFY.NORM: the word's own three fields (R97). -/
def execNorm (s : BitVec 1) (e : BitVec 8) (m : BitVec 23) (st : State) : Host.Outcome State Fault Refusal :=
  .next (evaluate s e m st)

/-- The exact condition of each tag's row on the decoder's tests, free of any order (R91 to R97, R100). -/
def rowHolds (t : Tag) (b : Word) : Bool :=
  match t with
  | .positiveZero => expZero (exponent b) && manZero (mantissa b) && sign b == 0#1
  | .negativeZero => expZero (exponent b) && manZero (mantissa b) && sign b == 1#1
  | .denormalizedNumber => expZero (exponent b) && !manZero (mantissa b)
  | .positiveInfinity => expOnes (exponent b) && manZero (mantissa b) && sign b == 0#1
  | .negativeInfinity => expOnes (exponent b) && manZero (mantissa b) && sign b == 1#1
  | .notANumber => expOnes (exponent b) && !manZero (mantissa b)
  | .normalizedNumber => expMid (exponent b)

/-- The magnitude form: five ranges of the low 31 bits (R103). -/
def classifyByMagnitude (b : Word) : Tag :=
  if magnitude b = 0 then zeroTag (sign b)
  else if magnitude b ≤ 0x007FFFFF then .denormalizedNumber
  else if magnitude b ≤ 0x7F7FFFFF then .normalizedNumber
  else if magnitude b = 0x7F800000 then infTag (sign b)
  else .notANumber

/-- Bit 2 of `tag_o` as an equation (R98). -/
def tagBit2 (b : Word) : Bool := expOnes (exponent b)

/-- Bit 1 of `tag_o` as an equation (R98). -/
def tagBit1 (b : Word) : Bool :=
  expMid (exponent b) || (expOnes (exponent b) && !manZero (mantissa b)) || (expZero (exponent b) && !manZero (mantissa b))

/-- Bit 0 of `tag_o` as an equation (R98). -/
def tagBit0 (b : Word) : Bool :=
  (expZero (exponent b) && (!manZero (mantissa b) || sign b == 1#1)) ||
    (expOnes (exponent b) && manZero (mantissa b) && sign b == 1#1)

end Sys2Proof.Machine
end

