-- ==== Sys2Proof/Machine/Dispatch.lean ====
section
/-! DEFINITION. One arm per row of the class map. -/

namespace Sys2Proof.Machine

def exec (i : Instr) (s : State) : Host.Outcome State Fault Refusal :=
  match i with
  | .pz => Sys2Proof.Machine.execPz s
  | .nz => Sys2Proof.Machine.execNz s
  | .den sg m => Sys2Proof.Machine.execDen sg m s
  | .pinf => Sys2Proof.Machine.execPinf s
  | .ninf => Sys2Proof.Machine.execNinf s
  | .nan sg m => Sys2Proof.Machine.execNan sg m s
  | .norm sg e m => Sys2Proof.Machine.execNorm sg e m s

end Sys2Proof.Machine
end

