-- ==== Sys2Proof/Machine/Step.lean ====
section
/-! DEFINITION. One step of the machine is one call of its host: the word on the input port is decoded to its row and the
row runs (00_scope.md R9). The step is the host's and the block contributes none (10_state.md R27; log entry 5); there is
no program counter (R12), so a step adds nothing around exec. -/

namespace Sys2Proof.Machine

/-- One call on the word that the host holds on `value_i` (00_scope.md R9, 70_reset_and_hazards.md R146). -/
def step (s : State) : Host.Outcome State Fault Refusal := exec (decode s.inputWord) s

/-- The host drives `value_i` with the word that `nbits` bits `w` stand for, so that the next step calls it (92 D14,
70_reset_and_hazards.md R144; log entry 6). DESIGN CHOICE (log entry 8): a number `w` that does not fit in `nbits` bits is cut
to its low `nbits` bits; and this cannot refuse, so of a pattern of more than 32 bits, which is no input word
(30_encoding.md R63), it drives bits 31..0. -/
def State.withFetchWord (s : State) (nbits w : Nat) : State := s.drive (tableWord nbits w)

end Sys2Proof.Machine
end

