-- ==== Sys2Proof/Machine/Bank.lean ====
section
/-! DEFINITION. Any number of blocks side by side, each with its own two ports, sharing nothing (20_memory.md R44,
60_exceptions.md R124, 92_eei_decisions.md D11; log entry 16). -/

namespace Sys2Proof.Machine

/-- Blocks by position. -/
abbrev Bank := List State

/-- The host of block `k` drives its input. A position with no block leaves the bank as it is. -/
def Bank.driveAt (k : Nat) (w : Word) (b : Bank) : Bank := b.modify k (State.drive w)

/-- Block `k` evaluates its own input. -/
def Bank.stepAt (k : Nat) (b : Bank) : Host.Outcome Bank Fault Refusal :=
  match b[k]? with
  | none => .next b
  | some s =>
    match step s with
    | .next s' => .next (b.set k s')
    | .fault r => .fault r
    | .refused r => .refused r

/-- The codes on all the output ports. -/
def Bank.tagsO (b : Bank) : List TagCode := b.map State.tagO

end Sys2Proof.Machine
end

