-- ==== Sys2Proof/Machine/Build.lean ====
section
/-! DEFINITION. Elaboration: the one static check, and the block it produces or refuses (60_exceptions.md R112 to R115,
70_reset_and_hazards.md R133). No step performs, repeats or depends on it (R114). -/

namespace Sys2Proof.Machine

/-- The pseudocode of R113, its refusal condition negated. -/
def layoutConforms (p : Params) : Bool :=
  p.width == 32 && p.sBits == 1 && p.eBits == 8 && p.mBits == 23 && p.sBits + p.eBits + p.mBits == p.width &&
    p.eMask == 0xFF && p.mMask == 0x7FFFFF && p.sShift == 31 && p.eShift == 23

/-- The other constants of 00_scope.md R6, which a build may not change either (log entry 10). -/
def boundsConform (p : Params) : Bool := p.eAllOnes == 255 && p.eNormLo == 1 && p.eNormHi == 254 && p.nTags == 7

/-- Elaboration: the block, as the function from its input port to its output port (00_scope.md R8), or no block at all.
There is no degraded block (R115). -/
def elaborate (p : Params) : Except BuildRefusal (Word → TagCode) :=
  if layoutConforms p && boundsConform p then .ok (fun valueI => tagCode (classify valueI))
  else .error .platformNonConformance

/-- The platform's representation is binary32: 32 bits wide, base 2, with signed zero, infinity and both kinds of NaN
(R112, 70_reset_and_hazards.md R134). -/
def Platform.isBinary32 (pl : Platform) : Bool :=
  pl.width == 32 && pl.base == 2 && pl.signedZero && pl.infinity && pl.quietNan && pl.signalingNan

/-- The check of a system that can see its platform: R112's sub-condition (a), then the block's own elaboration. The
block alone is `elaborate`, for which (a) is the host's duty (R113 part (2); log entry 21). -/
def elaborateOn (pl : Platform) (p : Params) : Except BuildRefusal (Word → TagCode) :=
  if Platform.isBinary32 pl then elaborate p else .error .platformNonConformance

end Sys2Proof.Machine
end

