-- ==== Sys2Proof/Machine/HostSide.lean ====
section
/-! DEFINITION. How a host makes the word it presents (70_reset_and_hazards.md R134 to R138). These are the host's
duties and mistakes; the block classifies whatever word arrives (60_exceptions.md R113 part (2); log entry 14). -/

namespace Sys2Proof.Machine

/-- Four bytes assembled with the most significant first, so that the sign lands on `value_i[31]` (20_memory.md R33,
70_reset_and_hazards.md R134; log entry 20). -/
def assembleBytes (b3 b2 b1 b0 : Byte) : Word := b3 ++ b2 ++ b1 ++ b0

/-- The mistake of 95_test_vectors.md P5: the four bytes in reverse order. -/
def reverseBytes (w : Word) : Word :=
  assembleBytes (w.extractLsb' 0 8) (w.extractLsb' 8 8) (w.extractLsb' 16 8) (w.extractLsb' 24 8)

/-- The words that encode a NaN: exponent all ones, mantissa not zero (R96, R137). -/
def isNanWord (w : Word) : Bool := exponent w == 255#8 && mantissa w != 0#23

/-- A host's copy of `w` may arrive as `w'`: any NaN word for a NaN word, and every other word unchanged (R137,
93_implementation_defined.md U1; log entry 15). -/
def hostCopies (w w' : Word) : Prop := if isNanWord w then isNanWord w' = true else w' = w

end Sys2Proof.Machine
end

