-- ==== Sys2Proof/Machine/Stimulus.lean ====
section
/-! DEFINITION. A sequence of words applied one after another to one block (92_eei_decisions.md D14, 95_test_vectors.md
section 3): the host drives each word and reads the code, and the codes stand in its record. -/

namespace Sys2Proof.Machine

/-- One call on a word that the host drives first (00_scope.md R9). -/
def call (w : Word) (s : State) : Host.Outcome State Fault Refusal := step (s.drive w)

/-- The calls of a list of words in order (R146). -/
def runWords : List Word → State → Host.Outcome State Fault Refusal
  | [], s => .next s
  | w :: ws, s =>
    match call w s with
    | .next s' => runWords ws s'
    | .fault r => .fault r
    | .refused r => .refused r

end Sys2Proof.Machine
end

