-- ==== Sys2Proof/Machine/Timed.lean ====
section
/-! DEFINITION. The block over real time (70_reset_and_hazards.md R139 to R142, 20_memory.md R39). `T_PD` is an open
positive real, a parameter that no rule fixes (R141; log entry 12). R139's interval is here and not
in the step model, which has no time (log entry 2): at a moment at which the input has not been held, what `tag_o` shows is
not constrained at all, so a claim holds for every one of the eight codes there (93_implementation_defined.md U3). -/

namespace Sys2Proof.Machine

/-- The input has held one pattern for the whole of the time `d` up to the moment `t` (R139), both ends included (DEDUCED,
log entry 12). -/
def HeldFor (valueI : ℝ → Word) (d t : ℝ) : Prop := ∀ u, t - d ≤ u → u ≤ t → valueI u = valueI t

/-- `tagO` is an output that a block with delay `tPd` may show for the input `valueI`: at every moment at which the input
has been held for `tPd` it is the code of the present input's tag (R39, R139). -/
def TimedBlock (tPd : ℝ) (valueI : ℝ → Word) (tagO : ℝ → TagCode) : Prop :=
  0 < tPd ∧ ∀ t, HeldFor valueI tPd t → tagO t = tagCode (classify (valueI t))

end Sys2Proof.Machine
end

