-- ==== Sys2Proof/Machine/Written.lean ====
section
/-! DEFINITION. The written form of one evaluation, CLASSIFY 0xHHHHHHHH -> TagName (code) (30_encoding.md R64), and the
reader of its word. Text is a list of characters. -/

namespace Sys2Proof.Machine

/-- A hexadecimal digit as the spec writes it. -/
def hexChar (d : BitVec 4) : Char :=
  if d.toNat < 10 then Char.ofNat (48 + d.toNat) else Char.ofNat (55 + d.toNat)

/-- Eight digits, the most significant first (20_memory.md R33). -/
def hexDigits (w : Word) : List Char :=
  [hexChar (w.extractLsb' 28 4), hexChar (w.extractLsb' 24 4), hexChar (w.extractLsb' 20 4), hexChar (w.extractLsb' 16 4),
   hexChar (w.extractLsb' 12 4), hexChar (w.extractLsb' 8 4), hexChar (w.extractLsb' 4 4), hexChar (w.extractLsb' 0 4)]

/-- The tag names, spelled as in R52. -/
def tagName : Tag → List Char
  | .positiveZero => ['P', 'o', 's', 'i', 't', 'i', 'v', 'e', 'Z', 'e', 'r', 'o']
  | .negativeZero => ['N', 'e', 'g', 'a', 't', 'i', 'v', 'e', 'Z', 'e', 'r', 'o']
  | .normalizedNumber => ['N', 'o', 'r', 'm', 'a', 'l', 'i', 'z', 'e', 'd', 'N', 'u', 'm', 'b', 'e', 'r']
  | .denormalizedNumber => ['D', 'e', 'n', 'o', 'r', 'm', 'a', 'l', 'i', 'z', 'e', 'd', 'N', 'u', 'm', 'b', 'e', 'r']
  | .positiveInfinity => ['P', 'o', 's', 'i', 't', 'i', 'v', 'e', 'I', 'n', 'f', 'i', 'n', 'i', 't', 'y']
  | .negativeInfinity => ['N', 'e', 'g', 'a', 't', 'i', 'v', 'e', 'I', 'n', 'f', 'i', 'n', 'i', 't', 'y']
  | .notANumber => ['N', 'o', 't', 'A', 'N', 'u', 'm', 'b', 'e', 'r']

/-- The word part of the line (R64). -/
def writeWord (w : Word) : List Char := ['C', 'L', 'A', 'S', 'S', 'I', 'F', 'Y', ' ', '0', 'x'] ++ hexDigits w

/-- The whole line for the evaluation of a word: its word, its tag's name and the code in decimal (R64; log entry 18). -/
def writeCall (w : Word) : List Char :=
  writeWord w ++ [' ', '-', '>', ' '] ++ tagName (classify w) ++ [' ', '(', Char.ofNat (48 + (tagCode (classify w)).toNat), ')']

/-- The value of a hexadecimal digit. -/
def hexValue (c : Char) : Option (BitVec 4) :=
  if 48 ≤ c.toNat ∧ c.toNat ≤ 57 then some (BitVec.ofNat 4 (c.toNat - 48))
  else if 65 ≤ c.toNat ∧ c.toNat ≤ 70 then some (BitVec.ofNat 4 (c.toNat - 55))
  else none

/-- The word of eight digits, the most significant first. -/
def readHex : List Char → Word → Option Word
  | [], acc => some acc
  | c :: cs, acc =>
    match hexValue c with
    | some d => readHex cs ((acc <<< 4) ||| d.zeroExtend 32)
    | none => none

/-- What follows the eight digits of a line: nothing, or a space and the result, which is not read. -/
def endsWord : List Char → Bool
  | [] => true
  | c :: _ => c == ' '

/-- The word that a line asks to evaluate; a line that is not written as R64 says has none. -/
def readWord (line : List Char) : Option Word :=
  if line.take 11 = ['C', 'L', 'A', 'S', 'S', 'I', 'F', 'Y', ' ', '0', 'x'] ∧ 8 ≤ (line.drop 11).length ∧ endsWord (line.drop 19) then
    readHex ((line.drop 11).take 8) 0#32
  else none

end Sys2Proof.Machine
end

