-- ==== Sys2Proof/Safety.lean ====
section
/-! DEFINITION. What a safe run is: it never stops, and every code the host has read is the code of some word's tag. -/

namespace Sys2Proof.Machine

/-- Every code in the host's record is one that the block can show (30_encoding.md R62, 10_state.md R19). -/
def Coherent (s : State) : Prop := ∀ c ∈ s.tagsRead, ∃ w : Word, c = tagCode (classify w)

/-- The last code the host has read is the one the output shows now (10_state.md R23, 42_classifier.md R105). -/
def JustRead (s : State) : Prop := s.tagsRead.getLast? = some s.tagO

/-- The step goes on: no fault and no refusal (60_exceptions.md R110). -/
def Continues (s : State) : Prop := ∃ s', step s = .next s'

end Sys2Proof.Machine
end

