-- ==== Sys2Proof/Certificates/Slice0/Obligations.lean ====
section
/-! DEFINITION. What is claimed of the block, from the numbered rules of spec/. -/

open Sys2Proof Sys2Proof.Machine

/-! ### Ports and the bit-field extractor -/

/-- 40_field_extractor.md R70. -/
def Obligations.ReinterpretKeepsEveryBit : Prop :=
  (∀ s : State, s.inputWord = s.valueI) ∧
  (∀ (w : Word) (i : Nat), i < 32 → (reinterpret w).getLsbD i = w.getLsbD i) ∧
  reinterpret 0xC0490FDB#32 = 0xC0490FDB#32 ∧ (reinterpret 0xC0490FDB#32).toNat = 3226013659

/-- 20_memory.md R32. -/
def Obligations.InputPortReadsAsItsBitSum : Prop :=
  ∀ w : Word, (reinterpret w).toNat = ∑ i ∈ Finset.range 32, if w.getLsbD i then 2 ^ i else 0

/-- 40_field_extractor.md R71. -/
def Obligations.SignIsTheLogicalShift : Prop :=
  (∀ w : Word, (w >>> 31 = 0#32 ∨ w >>> 31 = 1#32) ∧ (sign w).toNat = (w >>> 31).toNat ∧
    (sign w = 1#1 ↔ w.getLsbD 31 = true)) ∧
  sign 0x80000000#32 = 1#1 ∧ sign 0x7FFFFFFF#32 = 0#1

/-- 40_field_extractor.md R72. -/
def Obligations.ExponentIsTheMaskedShift : Prop :=
  (∀ w : Word, (exponent w).toNat = ((w >>> 23) &&& 0xFF#32).toNat ∧
    (∀ i, i < 8 → (exponent w).getLsbD i = w.getLsbD (23 + i)) ∧
    exponent (w ^^^ 0x80000000#32) = exponent w) ∧
  0xFF800000#32 >>> 23 = 0x1FF#32 ∧ exponent 0xFF800000#32 = 255#8 ∧ exponent 0x3F800000#32 = 127#8

/-- 40_field_extractor.md R73. -/
def Obligations.MantissaIsTheLowBits : Prop :=
  (∀ w : Word, (mantissa w).toNat = (w &&& 0x7FFFFF#32).toNat ∧
    (∀ i, i < 23 → (mantissa w).getLsbD i = w.getLsbD i)) ∧
  (∀ (s s' : BitVec 1) (e e' : BitVec 8) (m : BitVec 23), mantissa (pack s e m) = mantissa (pack s' e' m)) ∧
  mantissa 0x7FC00000#32 = 0x400000#23 ∧ mantissa 0x00000001#32 = 1#23 ∧ mantissa 0x7F800000#32 = 0#23

/-- 40_field_extractor.md R74: both rebuilding equations, and the map to the three fields is a bijection. -/
def Obligations.FieldsPartitionTheWord : Prop :=
  (∀ w : Word,
    w = ((sign w).setWidth 32 <<< 31) ||| ((exponent w).setWidth 32 <<< 23) ||| (mantissa w).setWidth 32 ∧
    w = (sign w ++ exponent w ++ mantissa w : BitVec (1 + 8 + 23))) ∧
  Function.Bijective (fun w : Word => (sign w, exponent w, mantissa w))

/-- 30_encoding.md R51. -/
def Obligations.WordIsTheWeightedSumOfItsFields : Prop :=
  (∀ w : Word, w.toNat = (sign w).toNat * 2 ^ 31 + (exponent w).toNat * 2 ^ 23 + (mantissa w).toNat) ∧
  (∀ n : Nat, n < 2 ^ 32 → ∃! f : BitVec 1 × BitVec 8 × BitVec 23,
    n = f.1.toNat * 2 ^ 31 + f.2.1.toNat * 2 ^ 23 + f.2.2.toNat)

/-! ### The decoder's tests -/

/-- 41_field_decoder.md R80 to R83, and R82's two forms of the same set. -/
def Obligations.DecoderTestsAreTheCellValues : Prop :=
  (∀ e : BitVec 8, (expZero e = true ↔ e.toNat = 0) ∧ (expOnes e = true ↔ e.toNat = 255) ∧
    (expMid e = true ↔ 1 ≤ e.toNat ∧ e.toNat ≤ 254) ∧ expMid e = (!expZero e && !expOnes e) ∧
    (expZero e && expOnes e) = false) ∧
  (∀ m : BitVec 23, (manZero m = true ↔ m.toNat = 0) ∧ (∀ i, m.getLsbD i = true → manZero m = false)) ∧
  expZero (exponent 0x807FFFFF#32) = true ∧ expZero (exponent 0x00800000#32) = false ∧
  expOnes (exponent 0x7F800000#32) = true ∧ expOnes (exponent 0x7F7FFFFF#32) = false ∧
  manZero (mantissa 0x7F800001#32) = false ∧ manZero (mantissa 0xFF800000#32) = true

/-- 41_field_decoder.md R85. -/
def Obligations.ExactlyOneExponentClass : Prop :=
  (∀ w : Word,
    (expZero (exponent w) = true ∧ expMid (exponent w) = false ∧ expOnes (exponent w) = false) ∨
    (expZero (exponent w) = false ∧ expMid (exponent w) = true ∧ expOnes (exponent w) = false) ∨
    (expZero (exponent w) = false ∧ expMid (exponent w) = false ∧ expOnes (exponent w) = true)) ∧
  Nat.card { e : BitVec 8 // expZero e = true } = 1 ∧ Nat.card { e : BitVec 8 // expMid e = true } = 254 ∧
  Nat.card { e : BitVec 8 // expOnes e = true } = 1

/-! ### One statement per row of the class map

Which words take the row, the tag and the code that the output shows for them in every state, and the call on the row:
the host presents the row's word, and the code it reads joins its record, with nothing else changed. That a call is a step,
that exec presents the word and that the host keeps a record are the model's choice (log entries 5, 7 and 4), so these
statements are derived. -/

/-- 42_classifier.md R91; that exec presents the row's word and that the host keeps a record of the code are the
model's choice (log entries 7 and 4). -/
def Obligations.PositiveZeroRow : Prop :=
  (∀ w : Word, (expZero (exponent w) && manZero (mantissa w) && sign w == 0#1) = true ↔ w = 0x00000000#32) ∧
  (∀ w : Word, (w &&& 0xFFFFFFFF#32 = 0x00000000#32 ↔ w = 0x00000000#32) ∧ (decode w = .pz ↔ w = 0x00000000#32)) ∧
  (∀ s : State, s.valueI = 0x00000000#32 → classify s.valueI = .positiveZero ∧ s.tagO = 0#3 ∧
    step s = .next { s with tagsRead := s.tagsRead ++ [0#3] }) ∧
  (∀ s : State, exec .pz s = .next { valueI := 0x00000000#32, tagsRead := s.tagsRead ++ [0#3] }) ∧
  decode 0x80000000#32 = .nz ∧ decode 0x00000001#32 = .den 0#1 1#23 ∧ decode 0x00800000#32 = .norm 0#1 1#8 0#23

/-- 42_classifier.md R92; that exec presents the row's word and that the host keeps a record of the code are the
model's choice (log entries 7 and 4). -/
def Obligations.NegativeZeroRow : Prop :=
  (∀ w : Word, (expZero (exponent w) && manZero (mantissa w) && sign w == 1#1) = true ↔ w = 0x80000000#32) ∧
  (∀ w : Word, (w &&& 0xFFFFFFFF#32 = 0x80000000#32 ↔ w = 0x80000000#32) ∧ (decode w = .nz ↔ w = 0x80000000#32)) ∧
  (∀ s : State, s.valueI = 0x80000000#32 → classify s.valueI = .negativeZero ∧ s.tagO = 1#3 ∧
    step s = .next { s with tagsRead := s.tagsRead ++ [1#3] }) ∧
  (∀ s : State, exec .nz s = .next { valueI := 0x80000000#32, tagsRead := s.tagsRead ++ [1#3] })

/-- 42_classifier.md R93; that exec presents the row's word and that the host keeps a record of the code are the
model's choice (log entries 7 and 4). -/
def Obligations.DenormalizedNumberRow : Prop :=
  (∀ w : Word, (expZero (exponent w) && !manZero (mantissa w)) = true ↔
    (0x00000001 ≤ w.toNat ∧ w.toNat ≤ 0x007FFFFF) ∨ (0x80000001 ≤ w.toNat ∧ w.toNat ≤ 0x807FFFFF)) ∧
  Nat.card { w : Word // (expZero (exponent w) && !manZero (mantissa w)) = true } = 16777214 ∧
  (∀ w : Word, (w &&& 0x7F800000#32 = 0x00000000#32 ↔ exponent w = 0#8) ∧
    ((expZero (exponent w) && !manZero (mantissa w)) = true ↔ decode w = .den (sign w) (mantissa w))) ∧
  (∀ s : State, (expZero (exponent s.valueI) && !manZero (mantissa s.valueI)) = true →
    classify s.valueI = .denormalizedNumber ∧ s.tagO = 3#3 ∧ step s = .next { s with tagsRead := s.tagsRead ++ [3#3] }) ∧
  (∀ (sg : BitVec 1) (m : BitVec 23) (s : State), m ≠ 0#23 →
    exec (.den sg m) s = .next { valueI := pack sg 0#8 m, tagsRead := s.tagsRead ++ [3#3] }) ∧
  decode 0x00000001#32 = .den 0#1 0x000001#23 ∧ decode 0x807FFFFF#32 = .den 1#1 0x7FFFFF#23

/-- 42_classifier.md R94; that exec presents the row's word and that the host keeps a record of the code are the
model's choice (log entries 7 and 4). -/
def Obligations.PositiveInfinityRow : Prop :=
  (∀ w : Word, (expOnes (exponent w) && manZero (mantissa w) && sign w == 0#1) = true ↔ w = 0x7F800000#32) ∧
  (∀ w : Word, (w &&& 0xFFFFFFFF#32 = 0x7F800000#32 ↔ w = 0x7F800000#32) ∧ (decode w = .pinf ↔ w = 0x7F800000#32)) ∧
  (∀ s : State, s.valueI = 0x7F800000#32 → classify s.valueI = .positiveInfinity ∧ s.tagO = 4#3 ∧
    step s = .next { s with tagsRead := s.tagsRead ++ [4#3] }) ∧
  (∀ s : State, exec .pinf s = .next { valueI := 0x7F800000#32, tagsRead := s.tagsRead ++ [4#3] }) ∧
  decode 0x7F7FFFFF#32 = .norm 0#1 254#8 0x7FFFFF#23 ∧ decode 0x7F800001#32 = .nan 0#1 1#23

/-- 42_classifier.md R95; that exec presents the row's word and that the host keeps a record of the code are the
model's choice (log entries 7 and 4). -/
def Obligations.NegativeInfinityRow : Prop :=
  (∀ w : Word, (expOnes (exponent w) && manZero (mantissa w) && sign w == 1#1) = true ↔ w = 0xFF800000#32) ∧
  (∀ w : Word, (w &&& 0xFFFFFFFF#32 = 0xFF800000#32 ↔ w = 0xFF800000#32) ∧ (decode w = .ninf ↔ w = 0xFF800000#32)) ∧
  (∀ s : State, s.valueI = 0xFF800000#32 → classify s.valueI = .negativeInfinity ∧ s.tagO = 5#3 ∧
    step s = .next { s with tagsRead := s.tagsRead ++ [5#3] }) ∧
  (∀ s : State, exec .ninf s = .next { valueI := 0xFF800000#32, tagsRead := s.tagsRead ++ [5#3] }) ∧
  decode 0xFF7FFFFF#32 = .norm 1#1 254#8 0x7FFFFF#23 ∧ decode 0xFF800001#32 = .nan 1#1 1#23

/-- 42_classifier.md R96; that exec presents the row's word and that the host keeps a record of the code are the
model's choice (log entries 7 and 4). -/
def Obligations.NotANumberRow : Prop :=
  (∀ w : Word, (expOnes (exponent w) && !manZero (mantissa w)) = true ↔
    (0x7F800001 ≤ w.toNat ∧ w.toNat ≤ 0x7FFFFFFF) ∨ (0xFF800001 ≤ w.toNat ∧ w.toNat ≤ 0xFFFFFFFF)) ∧
  Nat.card { w : Word // (expOnes (exponent w) && !manZero (mantissa w)) = true } = 16777214 ∧
  (∀ w : Word, (w &&& 0x7F800000#32 = 0x7F800000#32 ↔ exponent w = 255#8) ∧
    ((expOnes (exponent w) && !manZero (mantissa w)) = true ↔ decode w = .nan (sign w) (mantissa w))) ∧
  (∀ s : State, (expOnes (exponent s.valueI) && !manZero (mantissa s.valueI)) = true →
    classify s.valueI = .notANumber ∧ s.tagO = 6#3 ∧ step s = .next { s with tagsRead := s.tagsRead ++ [6#3] }) ∧
  (∀ (sg : BitVec 1) (m : BitVec 23) (s : State), m ≠ 0#23 →
    exec (.nan sg m) s = .next { valueI := pack sg 255#8 m, tagsRead := s.tagsRead ++ [6#3] }) ∧
  decode 0x7FC00000#32 = .nan 0#1 0x400000#23 ∧ decode 0xFFA00000#32 = .nan 1#1 0x200000#23

/-- 42_classifier.md R97; that exec presents the row's word and that the host keeps a record of the code are the
model's choice (log entries 7 and 4). -/
def Obligations.NormalizedNumberRow : Prop :=
  (∀ w : Word, expMid (exponent w) = true ↔
    (0x00800000 ≤ w.toNat ∧ w.toNat ≤ 0x7F7FFFFF) ∨ (0x80800000 ≤ w.toNat ∧ w.toNat ≤ 0xFF7FFFFF)) ∧
  Nat.card { w : Word // expMid (exponent w) = true } = 4261412864 ∧
  (∀ w : Word, w &&& 0x00000000#32 = 0x00000000#32 ∧
    (expMid (exponent w) = true ↔ decode w = .norm (sign w) (exponent w) (mantissa w))) ∧
  (∀ s : State, expMid (exponent s.valueI) = true →
    classify s.valueI = .normalizedNumber ∧ s.tagO = 2#3 ∧ step s = .next { s with tagsRead := s.tagsRead ++ [2#3] }) ∧
  (∀ (sg : BitVec 1) (e : BitVec 8) (m : BitVec 23) (s : State), 1 ≤ e.toNat → e.toNat ≤ 254 →
    exec (.norm sg e m) s = .next { valueI := pack sg e m, tagsRead := s.tagsRead ++ [2#3] }) ∧
  decode 0x3F800000#32 = .norm 0#1 127#8 0#23

/-! ### The operation as a whole -/

/-- 42_classifier.md R90: every row of the decision table, cell for cell; the output shows in every state the code of the
tag it gives, and a step, which goes through the `match`/`mask` decoder and the row's mux tree, reads exactly that code.
That a step is a call and that the host keeps a record of the code are the model's choice (log entries 5 and 4). -/
def Obligations.StepComputesTheDecisionTable : Prop :=
  (∀ w : Word,
    (exponent w = 0#8 → mantissa w = 0#23 → sign w = 0#1 → classify w = .positiveZero) ∧
    (exponent w = 0#8 → mantissa w = 0#23 → sign w = 1#1 → classify w = .negativeZero) ∧
    (exponent w = 0#8 → mantissa w ≠ 0#23 → classify w = .denormalizedNumber) ∧
    (exponent w = 255#8 → mantissa w = 0#23 → sign w = 0#1 → classify w = .positiveInfinity) ∧
    (exponent w = 255#8 → mantissa w = 0#23 → sign w = 1#1 → classify w = .negativeInfinity) ∧
    (exponent w = 255#8 → mantissa w ≠ 0#23 → classify w = .notANumber) ∧
    (1 ≤ (exponent w).toNat → (exponent w).toNat ≤ 254 → classify w = .normalizedNumber)) ∧
  (∀ s : State, s.tagO = tagCode (classify s.valueI) ∧
    step s = .next { s with tagsRead := s.tagsRead ++ [tagCode (classify s.valueI)] }) ∧
  sign 0xC0490FDB#32 = 1#1 ∧ exponent 0xC0490FDB#32 = 128#8 ∧ mantissa 0xC0490FDB#32 = 0x490FDB#23 ∧
  classify 0xC0490FDB#32 = .normalizedNumber

/-- 30_encoding.md R57 and R58: the rows as given, and the first one a word hits is the one whose exact condition it
meets. -/
def Obligations.FirstHitIsTheExactRow : Prop :=
  classMap.map (fun r => (r.priority, r.tag, r.pattern, r.mask)) =
    [(1, .positiveZero, 0x00000000#32, 0xFFFFFFFF#32), (2, .negativeZero, 0x80000000#32, 0xFFFFFFFF#32),
     (3, .denormalizedNumber, 0x00000000#32, 0x7F800000#32), (4, .positiveInfinity, 0x7F800000#32, 0xFFFFFFFF#32),
     (5, .negativeInfinity, 0xFF800000#32, 0xFFFFFFFF#32), (6, .notANumber, 0x7F800000#32, 0x7F800000#32),
     (7, .normalizedNumber, 0x00000000#32, 0x00000000#32)] ∧
  (∀ w : Word, firstHit w = some (classify w) ∧ ∀ t, rowHolds t w = true ↔ firstHit w = some t) ∧
  (∀ w : Word, (rowDen.hits w = true ↔ exponent w = 0#8) ∧ (rowNan.hits w = true ↔ exponent w = 255#8) ∧
    rowNorm.hits w = true)

/-- 42_classifier.md R98: the reference tree and the three bit equations of the output. -/
def Obligations.MuxTreeAndBitEquations : Prop :=
  (∀ w : Word, classify w =
    if expZero (exponent w) then
      (if manZero (mantissa w) then (if sign w = 0#1 then .positiveZero else .negativeZero) else .denormalizedNumber)
    else if expOnes (exponent w) then
      (if manZero (mantissa w) then (if sign w = 0#1 then .positiveInfinity else .negativeInfinity) else .notANumber)
    else .normalizedNumber) ∧
  (∀ w : Word, tagOfFields (sign w) (exponent w) (mantissa w) = classify w) ∧
  (∀ s : State,
    s.tagO.getLsbD 2 = expOnes (exponent s.valueI) ∧
    s.tagO.getLsbD 1 = (expMid (exponent s.valueI) || (expOnes (exponent s.valueI) && !manZero (mantissa s.valueI)) ||
      (expZero (exponent s.valueI) && !manZero (mantissa s.valueI))) ∧
    s.tagO.getLsbD 0 = ((expZero (exponent s.valueI) && (!manZero (mantissa s.valueI) || sign s.valueI == 1#1)) ||
      (expOnes (exponent s.valueI) && manZero (mantissa s.valueI) && sign s.valueI == 1#1)))

/-- The model's own three functions for those equations agree with its output (42_classifier.md R98). -/
def Obligations.TagBitFunctionsAgree : Prop :=
  ∀ w : Word, tagCode (classify w) = BitVec.ofBool (tagBit2 w) ++ BitVec.ofBool (tagBit1 w) ++ BitVec.ofBool (tagBit0 w)

/-- 42_classifier.md R99. The third clause's word is one word for the tag, whatever the state. That a
step is a call and that the host keeps a record of the code are the model's choice (log entries 5 and 4). -/
def Obligations.EveryWordHasOneTagAndEveryTagAWord : Prop :=
  (∀ w : Word, ∃! t : Tag, rowHolds t w = true) ∧
  (∀ s : State, ∃! t : Tag, s.tagO = tagCode t ∧ step s = .next { s with tagsRead := s.tagsRead ++ [tagCode t] }) ∧
  (∀ t : Tag, ∃ w : Word, classify w = t ∧ ∀ s : State, ∃ s' : State, call w s = .next s' ∧ s'.tagO = tagCode t ∧
    s'.tagsRead = s.tagsRead ++ [tagCode t])

/-- 42_classifier.md R100: the exact conditions are disjoint, so any order of the rows gives the same tag. -/
def Obligations.RowOrderDoesNotMatter : Prop :=
  (∀ (w : Word) (t u : Tag), rowHolds t w = true → rowHolds u w = true → t = u) ∧
  (∀ (w : Word) (rows : List Tag), rows.Perm Tag.all → rows.find? (fun t => rowHolds t w) = some (classify w))

/-- 42_classifier.md R102. -/
def Obligations.SignKeptForZerosAndInfinitiesOnly : Prop :=
  classify 0x00000000#32 = .positiveZero ∧ classify 0x80000000#32 = .negativeZero ∧
  classify 0x7F800000#32 = .positiveInfinity ∧ classify 0xFF800000#32 = .negativeInfinity ∧
  (∀ b : Word, b ≠ 0x00000000#32 → b ≠ 0x80000000#32 → b ≠ 0x7F800000#32 → b ≠ 0xFF800000#32 →
    classify (b ^^^ 0x80000000#32) = classify b) ∧
  (∀ b : Word, (b = 0x00000000#32 ∨ b = 0x80000000#32 ∨ b = 0x7F800000#32 ∨ b = 0xFF800000#32) →
    classify (b ^^^ 0x80000000#32) ≠ classify b)

/-- 42_classifier.md R103. -/
def Obligations.MagnitudeFormGivesTheTag : Prop :=
  ∀ b : Word,
    (b &&& 0x7FFFFFFF#32).toNat = (exponent b).toNat * 2 ^ 23 + (mantissa b).toNat ∧
    magnitude b = (b &&& 0x7FFFFFFF#32).toNat ∧
    ((b &&& 0x7FFFFFFF#32).toNat = 0 → classify b = if sign b = 0#1 then .positiveZero else .negativeZero) ∧
    (0x00000001 ≤ (b &&& 0x7FFFFFFF#32).toNat → (b &&& 0x7FFFFFFF#32).toNat ≤ 0x007FFFFF →
      classify b = .denormalizedNumber) ∧
    (0x00800000 ≤ (b &&& 0x7FFFFFFF#32).toNat → (b &&& 0x7FFFFFFF#32).toNat ≤ 0x7F7FFFFF →
      classify b = .normalizedNumber) ∧
    ((b &&& 0x7FFFFFFF#32).toNat = 0x7F800000 → classify b = if sign b = 0#1 then .positiveInfinity else .negativeInfinity) ∧
    (0x7F800001 ≤ (b &&& 0x7FFFFFFF#32).toNat → (b &&& 0x7FFFFFFF#32).toNat ≤ 0x7FFFFFFF → classify b = .notANumber) ∧
    classifyByMagnitude b = classify b

/-- 30_encoding.md R59. -/
def Obligations.WordsPerTag : Prop :=
  Nat.card { w : Word // classify w = .positiveZero } = 1 ∧
  Nat.card { w : Word // classify w = .negativeZero } = 1 ∧
  Nat.card { w : Word // classify w = .denormalizedNumber } = 2 * (2 ^ 23 - 1) ∧
  Nat.card { w : Word // classify w = .positiveInfinity } = 1 ∧
  Nat.card { w : Word // classify w = .negativeInfinity } = 1 ∧
  Nat.card { w : Word // classify w = .notANumber } = 2 * (2 ^ 23 - 1) ∧
  Nat.card { w : Word // classify w = .normalizedNumber } = 2 * 254 * 2 ^ 23 ∧
  1 + 1 + 2 * (2 ^ 23 - 1) + 1 + 1 + 2 * (2 ^ 23 - 1) + 2 * 254 * 2 ^ 23 = 2 ^ 32

/-- 95_test_vectors.md V6: with the sign fixed, the tag changes at four places and no others. -/
def Obligations.TagChangesAtFourBoundaries : Prop :=
  ∀ (sg : Nat) (n : Nat), sg < 2 → n + 1 < 2 ^ 31 →
    (classify (BitVec.ofNat 32 (sg * 2 ^ 31 + n)) ≠ classify (BitVec.ofNat 32 (sg * 2 ^ 31 + (n + 1))) ↔
      n + 1 = 0x00000001 ∨ n + 1 = 0x00800000 ∨ n + 1 = 0x7F800000 ∨ n + 1 = 0x7F800001)

/-! ### The output code -/

/-- 30_encoding.md R52. -/
def Obligations.TagCodesInListedOrder : Prop :=
  [Tag.positiveZero, .negativeZero, .normalizedNumber, .denormalizedNumber, .positiveInfinity, .negativeInfinity,
    .notANumber].map tagCode = [0#3, 1#3, 2#3, 3#3, 4#3, 5#3, 6#3] ∧
  (∀ t u : Tag, tagCode t = tagCode u → t = u) ∧
  (∀ t : Tag, t ∈ Tag.all) ∧ Tag.all.Nodup ∧ Tag.all.length = 7

/-- 30_encoding.md R53 and R62: the output shows 7 in no state, no sequence of calls reads it, and every other code is
read for some word. That a step is a call, that a program is a list of calls and that the host keeps a record are the
model's choice (log entries 5, 6 and 4). -/
def Obligations.CodeSevenIsNeverRead : Prop :=
  (∀ s : State, s.tagO ≠ 7#3) ∧
  (∀ (ws : List Word) (s t : State), runWords ws s = .next t →
    ∃ codes : List TagCode, t.tagsRead = s.tagsRead ++ codes ∧ codes.length = ws.length ∧ 7#3 ∉ codes) ∧
  (∀ c : TagCode, c ≠ 7#3 → ∃ w : Word, ∀ s : State, ∃ t : State, call w s = .next t ∧ t.tagO = c ∧
    t.tagsRead = s.tagsRead ++ [c])

/-- 42_classifier.md R105: two words give one code just when they have one tag, so nothing else of a word shows, in the
output or in what a call reads from it. That a step is a call and that the host keeps a record are the model's choice
(log entries 5 and 4). -/
def Obligations.OutputCarriesTheTagAndNothingElse : Prop :=
  ∀ (w w' : Word) (s s' t t' : State), call w s = .next t → call w' s' = .next t' →
    (t.tagO = t'.tagO ↔ classify w = classify w') ∧
    (t.tagsRead.getLast? = t'.tagsRead.getLast? ↔ classify w = classify w')

/-- 30_encoding.md R61: every NaN word alike, and of the mantissa only whether it is zero. That a
step is a call and that the host keeps a record are the model's choice (log entries 5 and 4). -/
def Obligations.NanWordsAreIndistinguishable : Prop :=
  (∀ (w w' : Word) (s : State), exponent w = 255#8 → mantissa w ≠ 0#23 → exponent w' = 255#8 → mantissa w' ≠ 0#23 →
    ∃ t t' : State, call w s = .next t ∧ call w' s = .next t' ∧
      t.tagO = tagCode .notANumber ∧ t'.tagO = tagCode .notANumber ∧ t.tagsRead = t'.tagsRead) ∧
  (∀ (sg : BitVec 1) (e : BitVec 8) (m m' : BitVec 23), (m = 0#23 ↔ m' = 0#23) →
    classify (pack sg e m) = classify (pack sg e m'))

/-! ### Encoding -/

/-- 30_encoding.md R50, R57: no bit of an instruction's word is dropped by the decoder. -/
def Obligations.DecodeOfEncode : Prop := ∀ i : Instr, i.wf = true → decode (encode i) = i

/-- 30_encoding.md R60: every word is some row's, and that row's term says the whole word. -/
def Obligations.EncodeOfDecode : Prop := ∀ w : Word, (decode w).wf = true ∧ encode (decode w) = w

/-- Words written out from the spec's patterns decode to the rows they stand for (30_encoding.md R57; 95_test_vectors.md
section 1.2). -/
def Obligations.SampleWordsDecode : Prop :=
  decode 0b00000000000000000000000000000000#32 = .pz ∧
  decode 0b10000000000000000000000000000000#32 = .nz ∧
  decode 0b10000000010000000000000000000001#32 = .den 1#1 0b10000000000000000000001#23 ∧
  decode 0b01111111100000000000000000000000#32 = .pinf ∧
  decode 0b11111111100000000000000000000000#32 = .ninf ∧
  decode 0b11111111101000000000000000000000#32 = .nan 1#1 0b01000000000000000000000#23 ∧
  decode 0b11000000010010010000111111011011#32 = .norm 1#1 0b10000000#8 0b10010010000111111011011#23

/-- The decoder on a row of the opcode table, and 30_encoding.md R63: a pattern wider than the port is no word. How a
shorter pattern is read, that a number which does not fit in `nbits` bits is cut to them, and that `tableWord`, which cannot
refuse, keeps the low 32 bits of a longer pattern, are the model's choice (log entry 8). -/
def Obligations.TableWordsDecodeOnlyAtTheirWidth : Prop :=
  (∀ nbits w : Nat, nbits ≤ 32 → decodeTableWord nbits w = some (decode (BitVec.ofNat 32 (w % 2 ^ nbits)))) ∧
  (∀ nbits w : Nat, 32 < nbits → decodeTableWord nbits w = none) ∧
  (∀ w : Nat, 2 ^ 32 ≤ w → decodeRaw w = .error .notThirtyTwoBits) ∧
  (∀ nbits w : Nat, 32 < nbits → tableWord nbits w = BitVec.ofNat 32 w)

/-! ### The step, its frame and what it keeps -/

/-- A step is exec of the row that the input word decodes to, and adds nothing around it (00_scope.md R9). That a step is a
call is the model's choice (log entry 5). -/
def Obligations.StepRunsTheDecodedRow : Prop :=
  ∀ (s : State) (i : Instr), decode s.valueI = i → step s = exec i s

/-- An instruction placed on the input is the one the next step runs. That the host drives it so is the model's choice (log
entry 6). -/
def Obligations.PlacedInstructionRunsNext : Prop :=
  ∀ (s : State) (i : Instr), i.wf = true →
    (s.withFetchWord 32 (encode i).toNat).valueI = encode i ∧
    step (s.withFetchWord 32 (encode i).toNat) = exec i (s.withFetchWord 32 (encode i).toNat) ∧
    decodeTableWord 32 (encode i).toNat = some i

/-- 42_classifier.md R104: every well-formed row goes on from every state in which its word is on the input, with a tag
that the state has no part in; the input is not written, and only the code read joins the host's record.
That a row is a constructor and that the host keeps a record are the model's choice (log entries 7 and 4). -/
def Obligations.EveryRowWritesOnlyTheOutput : Prop :=
  ∀ i : Instr, i.wf = true → ∃ t : Tag, ∀ s : State, s.valueI = encode i →
    exec i s = .next { s with tagsRead := s.tagsRead ++ [tagCode t] } ∧ s.tagO = tagCode t

/-- Every term of Instr, well formed or not, is a call on the bits it stands for: they are presented and the code of their
tag is read (42_classifier.md R90). That exec presents the word, what it does with ill-formed terms and that the host
keeps a record are the model's choice (log entries 7 and 4). -/
def Obligations.EveryRowDrivesTheTagOfItsWord : Prop :=
  ∀ (i : Instr) (s : State),
    exec i s = .next { valueI := encode i, tagsRead := s.tagsRead ++ [tagCode (classify (encode i))] }

/-- Every code in the host's record is the code of some word's tag: every step, every row and every act of the host keeps
it, and after a step the last code read is what the output shows (10_state.md R19, R23). The record, the
step as a call and what ill-formed terms do are the model's choice (log entries 4, 5 and 7). -/
def Obligations.CoherentRecordIsKept : Prop :=
  (∀ s s' : State, Coherent s → step s = .next s' → Coherent s' ∧ JustRead s' ∧ s'.valueI = s.valueI) ∧
  (∀ (i : Instr) (s s' : State), Coherent s → exec i s = .next s' → Coherent s' ∧ JustRead s') ∧
  (∀ (s : State) (w : Word), Coherent s → Coherent (s.drive w)) ∧
  (∀ (s : State) (mask w : Word), Coherent s → Coherent (s.driveBits mask w)) ∧
  (∀ s : State, Coherent s → Coherent s.read ∧ JustRead s.read) ∧
  (∀ (s : State) (nbits w : Nat), Coherent s → Coherent (s.withFetchWord nbits w)) ∧
  (∀ (s : State) (w : Word), Coherent s → Coherent (s.powerCycle w)) ∧
  (∀ s : State, Coherent s → 7#3 ∉ s.tagsRead)

/-- 10_state.md R10, R17, R27: the output is the same in every two states whose inputs hold the same word, and the host may
read it without a step; that it keeps a record of what it reads is the model's choice (log entry 4). -/
def Obligations.OutputIsAFunctionOfTheInputAlone : Prop :=
  (∀ s s' : State, s.valueI = s'.valueI → s.tagO = s'.tagO) ∧
  (∀ (w : Word) (codes : List TagCode), ({ valueI := w, tagsRead := codes } : State).tagO = tagCode (classify w)) ∧
  (∀ s : State, s.read.tagsRead = s.tagsRead ++ [tagCode (classify s.valueI)])

/-- 20_memory.md R36: an evaluation may be repeated with the same result, a step does no more than a read of the output
does, and reading changes neither port. That a step is a call and that the host keeps a record are the model's choice (log
entries 5 and 4). -/
def Obligations.EvaluationIsIdempotent : Prop :=
  (∀ s : State, step s = .next s.read ∧ s.read.valueI = s.valueI ∧ s.read.tagO = s.tagO) ∧
  (∀ s s' : State, step s = .next s' → s'.tagO = s.tagO ∧ step s' = .next { s' with tagsRead := s'.tagsRead ++ [s.tagO] }) ∧
  (∀ s s' : State, s.valueI = s'.valueI → ∀ t t' : State, step s = .next t → step s' = .next t' →
    t.tagO = t'.tagO ∧ t.tagsRead.getLast? = t'.tagsRead.getLast?)

/-- 10_state.md R25 after power-up; that the first word is the zero word and that the host's record is empty are the
model's choice (log entries 3 and 4). -/
def Obligations.ResetShowsTheTagOfItsWord : Prop :=
  State.reset.valueI = 0x00000000#32 ∧ classify State.reset.valueI = .positiveZero ∧ State.reset.tagO = 0#3 ∧
  State.reset.tagsRead = [] ∧ Coherent State.reset ∧ Sys2Proof.core.reset = State.reset

/-- 60_exceptions.md R126, 70_reset_and_hazards.md R131: the block loses nothing with the power, and the output is at once
the function of the input again; that a step is a call and that the host keeps its record are
the model's choice (log entries 5, 4 and 19). -/
def Obligations.PowerCycleLosesNothing : Prop :=
  (∀ (s : State) (w : Word), (s.powerCycle w).valueI = w ∧ (s.powerCycle w).tagO = tagCode (classify w)) ∧
  (∀ (s : State) (w : Word),
    step (s.powerCycle w) = .next { valueI := w, tagsRead := s.tagsRead ++ [tagCode (classify w)] }) ∧
  (∀ s : State, s.powerCycle s.valueI = s)

/-- 60_exceptions.md R110: no number of steps from any state ends in a fault or a refusal, and the ports hold what they
held: every step of a run reads the one code. That a step is a call and that the host keeps a record are the model's choice
(log entries 5 and 4). -/
def Obligations.NoRunEverStops : Prop :=
  (∀ s : Sys2Proof.Machine.State, Continues s) ∧
  (∀ (n : Nat) (s : Sys2Proof.Machine.State), ∃ t : Sys2Proof.Machine.State,
    Host.Core.run Sys2Proof.core n s = .next t ∧ t.valueI = s.valueI ∧ t.tagO = s.tagO ∧
    t.tagsRead = s.tagsRead ++ List.replicate n (tagCode (classify s.valueI)))

/-- 42_classifier.md R101: the codes read for a sequence of words are those of the words, whatever state it starts in and
whatever came before each word. That a step is a call, that a program is a list of calls and that the host keeps a record
are the model's choice (log entries 5, 6 and 4). -/
def Obligations.CodesReadDependOnTheWordsAlone : Prop :=
  ∀ (ws : List Word) (s : State), ∃ t : State,
    runWords ws s = .next t ∧ t.tagsRead = s.tagsRead ++ ws.map (fun w => tagCode (classify w)) ∧
    (ws = [] → t = s) ∧ (∀ w, ws.getLast? = some w → t.valueI = w ∧ t.tagO = tagCode (classify w))

/-! ### The host's side of the ports -/

/-- Holding a word leaves everything as it is, and a driven word shows its own code at once, whatever was there before
(20_memory.md R39, 42_classifier.md R105, 70_reset_and_hazards.md R142). That the host keeps a record is the
model's choice (log entry 4). -/
def Obligations.DrivingChangesTheInputAlone : Prop :=
  (∀ s : State, s.drive s.valueI = s) ∧
  (∀ (s : State) (w : Word), (s.drive w).valueI = w ∧ (s.drive w).tagO = tagCode (classify w) ∧
    (s.drive w).tagsRead = s.tagsRead)

/-- 70_reset_and_hazards.md R140: a mixture that is held is classified as it stands, and the word is whole once the other
bits have arrived. That bits arrive in groups, that a step is a call and that the host keeps a record are the model's
choice (log entries 17, 5 and 4). -/
def Obligations.MixtureIsClassifiedAsItStands : Prop :=
  (∀ (s : State) (mask w : Word),
    let mixture := (s.valueI &&& ~~~mask) ||| (w &&& mask)
    (s.driveBits mask w).valueI = mixture ∧ (s.driveBits mask w).tagO = tagCode (classify mixture) ∧
    step (s.driveBits mask w) = .next { valueI := mixture, tagsRead := s.tagsRead ++ [tagCode (classify mixture)] }) ∧
  (∀ (s : State) (mask w : Word), ((s.driveBits mask w).driveBits (~~~mask) w).valueI = w) ∧
  (∀ s : State, s.valueI = 0x7F7FFFFF#32 →
    (s.driveBits 0x00800000#32 0x7F800000#32).valueI = 0x7FFFFFFF#32 ∧
    (s.driveBits 0x00800000#32 0x7F800000#32).tagO = tagCode .notANumber)

/-- 70_reset_and_hazards.md R137: an altered copy of a NaN cannot change the tag. -/
def Obligations.AlteredNanCopyKeepsTheTag : Prop :=
  (∀ w w' : Word, hostCopies w w' → classify w' = classify w) ∧
  (∀ w : Word, isNanWord w = true → ∀ m : Word, m &&& 0xFF800000#32 = 0#32 → hostCopies w (w ||| m))

/-- 70_reset_and_hazards.md R134, 20_memory.md R33: bytes assembled with the most significant first put the fields where
the block reads them. -/
def Obligations.AssembledBytesLandOnTheFields : Prop :=
  (∀ b3 b2 b1 b0 : Byte,
    (assembleBytes b3 b2 b1 b0).toNat = b3.toNat * 2 ^ 24 + b2.toNat * 2 ^ 16 + b1.toNat * 2 ^ 8 + b0.toNat ∧
    (sign (assembleBytes b3 b2 b1 b0)).toNat = b3.toNat / 2 ^ 7 ∧
    (exponent (assembleBytes b3 b2 b1 b0)).toNat = (b3.toNat % 2 ^ 7) * 2 + b2.toNat / 2 ^ 7 ∧
    (mantissa (assembleBytes b3 b2 b1 b0)).toNat = (b2.toNat % 2 ^ 7) * 2 ^ 16 + b1.toNat * 2 ^ 8 + b0.toNat) ∧
  (∀ w : Word, reverseBytes (reverseBytes w) = w)

/-- 30_encoding.md R64, 20_memory.md R33: the line written for an evaluation reads back as its word. -/
def Obligations.WrittenLineReadsBackAsItsWord : Prop :=
  (∀ w : Word, readWord (writeCall w) = some w) ∧ (∀ w w' : Word, writeWord w = writeWord w' → w = w')

/-! ### Elaboration -/

/-- Only the fixed values of 00_scope.md R6 make a block, and the block is the function of R8. That E_ALL_ONES, E_NORM_LO,
E_NORM_HI and N_TAGS are checked too, beside what the check of 60_exceptions.md R113 names, is the model's reading (log
entry 10, DEDUCED). -/
def Obligations.OnlyTheFixedSizesBuild : Prop :=
  ∀ p : Params,
    let fixed := p.width = 32 ∧ p.sBits = 1 ∧ p.eBits = 8 ∧ p.mBits = 23 ∧ p.eShift = 23 ∧ p.sShift = 31 ∧ p.eMask = 255 ∧
      p.mMask = 8388607 ∧ p.eAllOnes = 255 ∧ p.eNormLo = 1 ∧ p.eNormHi = 254 ∧ p.nTags = 7
    (fixed → elaborate p = .ok (fun w => tagCode (classify w))) ∧
    (¬ fixed → elaborate p = .error .platformNonConformance)

/-- 60_exceptions.md R112: the one failure class, for a system that can see its platform (log entry 21). -/
def Obligations.NonConformingPlatformIsRefused : Prop :=
  ∀ (pl : Platform) (p : Params),
    let binary32 := pl.width = 32 ∧ pl.base = 2 ∧ pl.signedZero = true ∧ pl.infinity = true ∧ pl.quietNan = true ∧
      pl.signalingNan = true
    (¬ binary32 → elaborateOn pl p = .error .platformNonConformance) ∧
    (binary32 → elaborateOn pl p = elaborate p) ∧
    (∀ r : BuildRefusal, elaborateOn pl p = .error r → r = .platformNonConformance)

/-! ### Over real time, with the delay a free parameter -/

/-- 10_state.md R23. -/
def Obligations.SameStableWordSameCode : Prop :=
  ∀ (tPd : ℝ) (valueI : ℝ → Word) (tagO : ℝ → TagCode), TimedBlock tPd valueI tagO →
    ∀ t u : ℝ, HeldFor valueI tPd t → HeldFor valueI tPd u → valueI t = valueI u → tagO t = tagO u

/-- A word held from a moment on shows its own code from `T_PD` after it, and never 7 (70_reset_and_hazards.md R131,
R142). -/
def Obligations.HeldWordShowsItsCodeFromThenOn : Prop :=
  ∀ (tPd : ℝ) (valueI : ℝ → Word) (tagO : ℝ → TagCode) (w : Word) (t₀ : ℝ), TimedBlock tPd valueI tagO →
    (∀ u, t₀ ≤ u → valueI u = w) → ∀ t, t₀ + tPd ≤ t → tagO t = tagCode (classify w) ∧ tagO t ≠ 7#3

/-- Every moment at which the input has not been held shows a code of its own, so any codes may show at such moments, in
any sequence (70_reset_and_hazards.md R139, 93_implementation_defined.md U3: drawn afresh at every instant). Which moments
those are is read with log entry 12's closed interval. -/
def Obligations.UnsettledOutputIsFreeAtEveryMoment : Prop :=
  ∀ (tPd : ℝ) (valueI : ℝ → Word) (codes : ℝ → TagCode), 0 < tPd →
    ∃ tagO : ℝ → TagCode, TimedBlock tPd valueI tagO ∧ ∀ t, ¬ HeldFor valueI tPd t → tagO t = codes t

/-- 70_reset_and_hazards.md R139: the code is guaranteed exactly when the input has been held, and otherwise the output
may show any of the eight codes. That "held for `T_PD`" means the closed interval, both ends included, is the model's
choice (log entry 12, DEDUCED): an input that differs at the interval's first moment alone has not been held. -/
def Obligations.OnlyHeldInputsAreGuaranteed : Prop :=
  (∀ (tPd : ℝ) (valueI : ℝ → Word) (tagO : ℝ → TagCode) (t : ℝ), TimedBlock tPd valueI tagO →
    (∀ u, t - tPd ≤ u → u ≤ t → valueI u = valueI t) → tagO t = tagCode (classify (valueI t))) ∧
  (∀ (tPd : ℝ) (valueI : ℝ → Word) (t u : ℝ) (c : TagCode), 0 < tPd → t - tPd ≤ u → u ≤ t → valueI u ≠ valueI t →
    ∃ tagO : ℝ → TagCode, TimedBlock tPd valueI tagO ∧ tagO t = c)

/-! ### Several blocks -/

/-- 20_memory.md R44: driving and stepping one block touches no other. That blocks are a list and that a step is a call are the model's
choice (log entries 16 and 5). -/
def Obligations.BlocksShareNothing : Prop :=
  ∀ (b : Bank) (k : Nat) (s : State), b[k]? = some s →
    (∃ (s' : State) (b' : Bank), step s = .next s' ∧ b.stepAt k = .next b' ∧ b'[k]? = some s' ∧
      (∀ j, j ≠ k → b'[j]? = b[j]?)) ∧
    (∀ w : Word, (b.driveAt k w)[k]? = some (s.drive w) ∧ (∀ j, j ≠ k → (b.driveAt k w)[j]? = b[j]?))

/-- 20_memory.md R44: no order exists between two blocks. That blocks are a list, one acting at a time, is the model's
choice (log entries 16 and 5). -/
def Obligations.BlocksStepInAnyOrder : Prop :=
  ∀ (b bj bk : Bank) (j k : Nat), j ≠ k → b.stepAt j = .next bj → b.stepAt k = .next bk →
    ∃ c : Bank, bj.stepAt k = .next c ∧ bk.stepAt j = .next c ∧ c.length = b.length
end

