-- ==== Sys2Proof/Laws/Fields.lean ====
section
/-! SUPPORT. The extractor as slices of the word, and the word as the packing of its fields. -/

namespace Sys2Proof.Machine

/-- The shift by 31 selects bit 31 (40_field_extractor.md R71). -/
theorem sign_eq_slice (w : Word) : sign w = w.extractLsb' 31 1 := by
  ext i hi
  have : i = 0 := by omega
  subst this
  simp [sign]

/-- The shift by 23 under the mask selects bits 30..23 (R72). -/
theorem exponent_eq_slice (w : Word) : exponent w = w.extractLsb' 23 8 := by
  ext i hi
  have h : (BitVec.ofNat 32 255).getLsbD i = true := by
    interval_cases i <;> rfl
  simp_all [exponent]

/-- The mask selects bits 22..0 (R73). -/
theorem mantissa_eq_slice (w : Word) : mantissa w = w.extractLsb' 0 23 := by
  ext i hi
  have h : (BitVec.ofNat 32 8388607).getLsbD i = true := by
    interval_cases i <;> rfl
  simp_all [mantissa]

/-- Each bit of a packed word belongs to exactly one field (R74). -/
theorem pack_getLsbD (s : BitVec 1) (e : BitVec 8) (m : BitVec 23) (i : Nat) :
    (pack s e m).getLsbD i = if i < 23 then m.getLsbD i else if i < 31 then e.getLsbD (i - 23) else s.getLsbD (i - 31) := by
  show ((s ++ e) ++ m : BitVec (1 + 8 + 23)).getLsbD i = _
  rw [BitVec.getLsbD_append, BitVec.getLsbD_append]
  split
  · rfl
  · split <;> split <;> first | rfl | omega

theorem sign_pack (s : BitVec 1) (e : BitVec 8) (m : BitVec 23) : sign (pack s e m) = s := by
  rw [sign_eq_slice]
  apply BitVec.eq_of_getLsbD_eq
  intro i hi
  have : i = 0 := by omega
  subst this
  rw [BitVec.getLsbD_extractLsb', pack_getLsbD]
  simp

theorem exponent_pack (s : BitVec 1) (e : BitVec 8) (m : BitVec 23) : exponent (pack s e m) = e := by
  rw [exponent_eq_slice]
  apply BitVec.eq_of_getLsbD_eq
  intro i hi
  have h : 23 + i < 31 := by omega
  simp [pack_getLsbD, hi, h]

theorem mantissa_pack (s : BitVec 1) (e : BitVec 8) (m : BitVec 23) : mantissa (pack s e m) = m := by
  rw [mantissa_eq_slice]
  apply BitVec.eq_of_getLsbD_eq
  intro i hi
  simp [pack_getLsbD, hi]

theorem pack_fields (w : Word) : pack (sign w) (exponent w) (mantissa w) = w := by
  rw [sign_eq_slice, exponent_eq_slice, mantissa_eq_slice]
  apply BitVec.eq_of_getLsbD_eq
  intro i hi
  rw [pack_getLsbD]
  split
  · simp [*]
  · split
    · simp; rw [decide_eq_true (by omega : i - 23 < 8), Bool.true_and]; congr 1; omega
    · have : i = 31 := by omega
      subst this; simp

/-- A packed word as an integer (30_encoding.md R51). -/
theorem pack_toNat (s : BitVec 1) (e : BitVec 8) (m : BitVec 23) :
    (pack s e m).toNat = s.toNat * 2 ^ 31 + e.toNat * 2 ^ 23 + m.toNat := by
  show ((s ++ e) ++ m : BitVec (1 + 8 + 23)).toNat = _
  have hm := m.isLt
  have he := e.isLt
  rw [BitVec.toNat_append, BitVec.toNat_append, ← Nat.shiftLeft_add_eq_or_of_lt hm, ← Nat.shiftLeft_add_eq_or_of_lt he,
    Nat.shiftLeft_eq, Nat.shiftLeft_eq]
  omega

theorem toNat_eq_fields (w : Word) : w.toNat = (sign w).toNat * 2 ^ 31 + (exponent w).toNat * 2 ^ 23 + (mantissa w).toNat := by
  rw [← pack_toNat, pack_fields]

/-- Two packed words are equal just when their fields are. -/
theorem pack_inj {s s' : BitVec 1} {e e' : BitVec 8} {m m' : BitVec 23} :
    pack s e m = pack s' e' m' ↔ s = s' ∧ e = e' ∧ m = m' := by
  constructor
  · intro h
    exact ⟨by simpa [sign_pack] using congrArg sign h, by simpa [exponent_pack] using congrArg exponent h,
      by simpa [mantissa_pack] using congrArg mantissa h⟩
  · rintro ⟨rfl, rfl, rfl⟩; rfl

/-- A mask acts on each field apart. -/
theorem pack_and (s s' : BitVec 1) (e e' : BitVec 8) (m m' : BitVec 23) :
    pack s e m &&& pack s' e' m' = pack (s &&& s') (e &&& e') (m &&& m') := by
  apply BitVec.eq_of_getLsbD_eq
  intro i hi
  simp only [pack_getLsbD, BitVec.getLsbD_and]
  split <;> [skip; split] <;> simp 

/-- Flipping bits acts on each field apart. -/
theorem pack_xor (s s' : BitVec 1) (e e' : BitVec 8) (m m' : BitVec 23) :
    pack s e m ^^^ pack s' e' m' = pack (s ^^^ s') (e ^^^ e') (m ^^^ m') := by
  apply BitVec.eq_of_getLsbD_eq
  intro i hi
  simp only [pack_getLsbD, BitVec.getLsbD_xor]
  split <;> [skip; split] <;> simp 

/-- Every word is the packing of its fields, so a claim about words is a claim about fields. -/
theorem forall_word {P : Word → Prop} : (∀ w, P w) ↔ ∀ s e m, P (pack s e m) :=
  ⟨fun h _ _ _ => h _, fun h w => pack_fields w ▸ h _ _ _⟩

end Sys2Proof.Machine
end

