-- ==== Sys2Proof/Laws/ClassMap.lean ====
section
/-! SUPPORT. What each row of the class map hits, on the fields of a word, and the decoder by cases on the fields. -/

namespace Sys2Proof.Machine

theorem and_ones1 (s : BitVec 1) : s &&& 1#1 = s := BitVec.and_allOnes
theorem and_ones8 (e : BitVec 8) : e &&& 255#8 = e := BitVec.and_allOnes
theorem and_ones23 (m : BitVec 23) : m &&& 8388607#23 = m := BitVec.and_allOnes

/-- What a row hits, when its mask and its match are written as fields. -/
theorem hits_pack {r : ClassRow} {s s' s'' : BitVec 1} {e e' e'' : BitVec 8} {m m' m'' : BitVec 23}
    (hm : r.mask = pack s' e' m') (hp : r.pattern = pack s'' e'' m'') :
    r.hits (pack s e m) = true ↔ s &&& s' = s'' ∧ e &&& e' = e'' ∧ m &&& m' = m'' := by
  rw [ClassRow.hits, hm, hp, pack_and, beq_iff_eq, pack_inj]

/-- A row whose mask is all ones hits the one word of its match. -/
theorem hits_exactly {r : ClassRow} (hm : r.mask = 0xFFFFFFFF#32) (b : Word) : r.hits b = true ↔ b = r.pattern := by
  have h : b &&& 0xFFFFFFFF#32 = b := BitVec.and_allOnes
  rw [ClassRow.hits, hm, h, beq_iff_eq]

variable (s : BitVec 1) (e : BitVec 8) (m : BitVec 23)

theorem rowPz_hits : rowPz.hits (pack s e m) = true ↔ s = 0#1 ∧ e = 0#8 ∧ m = 0#23 := by
  rw [hits_exactly rfl, show rowPz.pattern = pack 0#1 0#8 0#23 by decide, pack_inj]

theorem rowNz_hits : rowNz.hits (pack s e m) = true ↔ s = 1#1 ∧ e = 0#8 ∧ m = 0#23 := by
  rw [hits_exactly rfl, show rowNz.pattern = pack 1#1 0#8 0#23 by decide, pack_inj]

theorem rowPinf_hits : rowPinf.hits (pack s e m) = true ↔ s = 0#1 ∧ e = 255#8 ∧ m = 0#23 := by
  rw [hits_exactly rfl, show rowPinf.pattern = pack 0#1 255#8 0#23 by decide, pack_inj]

theorem rowNinf_hits : rowNinf.hits (pack s e m) = true ↔ s = 1#1 ∧ e = 255#8 ∧ m = 0#23 := by
  rw [hits_exactly rfl, show rowNinf.pattern = pack 1#1 255#8 0#23 by decide, pack_inj]

theorem rowDen_hits : rowDen.hits (pack s e m) = true ↔ e = 0#8 := by
  rw [hits_pack (s' := 0#1) (e' := 255#8) (m' := 0#23) (s'' := 0#1) (e'' := 0#8) (m'' := 0#23) (by decide) (by decide), and_ones8]
  simp

theorem rowNan_hits : rowNan.hits (pack s e m) = true ↔ e = 255#8 := by
  rw [hits_pack (s' := 0#1) (e' := 255#8) (m' := 0#23) (s'' := 0#1) (e'' := 255#8) (m'' := 0#23) (by decide) (by decide), and_ones8]
  simp

theorem rowNorm_hits (b : Word) : rowNorm.hits b = true := by
  simp [rowNorm, ClassRow.hits]

/-- The decoder on a word given by its fields: each row's test as a test of the fields. -/
theorem decode_pack : decode (pack s e m) =
    if s = 0#1 ∧ e = 0#8 ∧ m = 0#23 then .pz
    else if s = 1#1 ∧ e = 0#8 ∧ m = 0#23 then .nz
    else if e = 0#8 then .den s m
    else if s = 0#1 ∧ e = 255#8 ∧ m = 0#23 then .pinf
    else if s = 1#1 ∧ e = 255#8 ∧ m = 0#23 then .ninf
    else if e = 255#8 then .nan s m
    else .norm s e m := by
  simp only [decode, rowPz_hits, rowNz_hits, rowDen_hits, rowPinf_hits, rowNinf_hits, rowNan_hits, sign_pack, exponent_pack,
    mantissa_pack]

/-- A sign bit is 0 or 1. -/
theorem sign_cases : s = 0#1 ∨ s = 1#1 := by
  revert s; decide

end Sys2Proof.Machine
end

