-- ==== Sys2Proof/Laws/State.lean ====
section
/-! SUPPORT. What each operation on the ports leaves in each field of the state and on the output. -/

namespace Sys2Proof.Machine

variable (st : State)

@[simp] theorem State.inputWord_eq : st.inputWord = st.valueI := rfl

@[simp] theorem State.drive_valueI (w : Word) : (st.drive w).valueI = w := rfl
@[simp] theorem State.drive_tagsRead (w : Word) : (st.drive w).tagsRead = st.tagsRead := rfl
@[simp] theorem State.drive_tagO (w : Word) : (st.drive w).tagO = tagCode (classify w) := rfl
@[simp] theorem State.drive_drive (w v : Word) : (st.drive w).drive v = st.drive v := rfl
@[simp] theorem State.drive_self : st.drive st.valueI = st := rfl

@[simp] theorem State.note_valueI (c : TagCode) : (st.note c).valueI = st.valueI := rfl
@[simp] theorem State.note_tagsRead (c : TagCode) : (st.note c).tagsRead = st.tagsRead ++ [c] := rfl
@[simp] theorem State.note_tagO (c : TagCode) : (st.note c).tagO = st.tagO := rfl

@[simp] theorem State.read_valueI : st.read.valueI = st.valueI := rfl
@[simp] theorem State.read_tagsRead : st.read.tagsRead = st.tagsRead ++ [st.tagO] := rfl
@[simp] theorem State.read_tagO : st.read.tagO = st.tagO := rfl

@[simp] theorem State.powerCycle_valueI (w : Word) : (st.powerCycle w).valueI = w := rfl
@[simp] theorem State.powerCycle_tagsRead (w : Word) : (st.powerCycle w).tagsRead = st.tagsRead := rfl

/-- The output depends on the input port alone (10_state.md R10). -/
theorem State.tagO_congr {st st' : State} (h : st.valueI = st'.valueI) : st.tagO = st'.tagO := by
  simp [State.tagO, h]

end Sys2Proof.Machine
end

