-- ==== Sys2Proof/Laws/Exec.lean ====
section
/-! SUPPORT. The shared evaluation and each arm of exec, said once. -/

namespace Sys2Proof.Machine

variable (s : BitVec 1) (e : BitVec 8) (m : BitVec 23) (st : State)

/-- All that an evaluation does: the host presents the word of the fields and its record gains the code of their tag. -/
theorem evaluate_eq :
    evaluate s e m st = { valueI := pack s e m, tagsRead := st.tagsRead ++ [tagCode (tagOfFields s e m)] } := rfl

@[simp] theorem evaluate_valueI : (evaluate s e m st).valueI = pack s e m := rfl
@[simp] theorem evaluate_tagsRead : (evaluate s e m st).tagsRead = st.tagsRead ++ [tagCode (tagOfFields s e m)] := rfl

theorem exec_pz : exec .pz st = .next (evaluate 0#1 0#8 0#23 st) := rfl
theorem exec_nz : exec .nz st = .next (evaluate 1#1 0#8 0#23 st) := rfl
theorem exec_den : exec (.den s m) st = .next (evaluate s 0#8 m st) := rfl
theorem exec_pinf : exec .pinf st = .next (evaluate 0#1 255#8 0#23 st) := rfl
theorem exec_ninf : exec .ninf st = .next (evaluate 1#1 255#8 0#23 st) := rfl
theorem exec_nan : exec (.nan s m) st = .next (evaluate s 255#8 m st) := rfl
theorem exec_norm : exec (.norm s e m) st = .next (evaluate s e m st) := rfl

/-- The mux tree for exponent 0 (42_classifier.md R98). -/
theorem tagOfFields_zero : tagOfFields s 0#8 m = if m = 0#23 then zeroTag s else .denormalizedNumber := by
  simp [tagOfFields, muxTree, loTag, expZero, manZero]

/-- The mux tree for exponent 255 (R98). -/
theorem tagOfFields_ones : tagOfFields s 255#8 m = if m = 0#23 then infTag s else .notANumber := by
  simp [tagOfFields, muxTree, hiTag, expZero, expOnes, manZero]

/-- The mux tree for every other exponent (R98). -/
theorem tagOfFields_mid {e : BitVec 8} (h0 : e ≠ 0#8) (h1 : e ≠ 255#8) : tagOfFields s e m = .normalizedNumber := by
  simp [tagOfFields, muxTree, expZero, expOnes, h0, h1]

end Sys2Proof.Machine
end

