-- ==== Sys2Proof/Laws/Host.lean ====
section
/-! SUPPORT. The host's operations, the bank and elaboration, each said once. -/

namespace Sys2Proof.Machine

variable (st : State)

@[simp] theorem State.driveBits_valueI (mask w : Word) :
    (st.driveBits mask w).valueI = (st.valueI &&& ~~~mask) ||| (w &&& mask) := rfl
@[simp] theorem State.driveBits_tagsRead (mask w : Word) : (st.driveBits mask w).tagsRead = st.tagsRead := rfl

@[simp] theorem State.withFetchWord_valueI (nbits w : Nat) : (st.withFetchWord nbits w).valueI = tableWord nbits w := rfl
@[simp] theorem State.withFetchWord_tagsRead (nbits w : Nat) : (st.withFetchWord nbits w).tagsRead = st.tagsRead := rfl

theorem runWords_nil : runWords [] st = .next st := rfl

/-- One more word at the front, when its call goes on. -/
theorem runWords_cons {w : Word} {ws : List Word} {s' : State} (h : call w st = .next s') :
    runWords (w :: ws) st = runWords ws s' := by
  simp [runWords, h]

theorem Bank.stepAt_absent {b : Bank} {k : Nat} (h : b[k]? = none) : b.stepAt k = .next b := by
  simp [Bank.stepAt, h]

theorem Bank.stepAt_present {b : Bank} {k : Nat} {s s' : State} (h : b[k]? = some s) (hs : step s = .next s') :
    b.stepAt k = .next (b.set k s') := by
  simp [Bank.stepAt, h, hs]

/-- Elaboration gives the block or the one refusal, and nothing else. -/
theorem elaborate_cases (p : Params) :
    (layoutConforms p && boundsConform p) = true ∧ elaborate p = .ok (fun w => tagCode (classify w)) ∨
      (layoutConforms p && boundsConform p) = false ∧ elaborate p = .error .platformNonConformance := by
  cases h : (layoutConforms p && boundsConform p) <;> simp [elaborate, h]

end Sys2Proof.Machine
end

