-- ==== Sys2Proof/Laws/PerInstr.lean ====
section
/-! SUPPORT. Family WordShape: the encoded word of each row carries, in the extractor's three fields, the row's fixed
cells and its own operands (30_encoding.md R50, R57). -/

namespace Sys2Proof.Laws

open Sys2Proof.Machine

/-- The three fields that a row's pattern column and its operands give. -/
def fieldsOf : Instr → BitVec 1 × BitVec 8 × BitVec 23
  | .pz => (0, 0, 0)
  | .nz => (1, 0, 0)
  | .den s m => (s, 0, m)
  | .pinf => (0, 255, 0)
  | .ninf => (1, 255, 0)
  | .nan s m => (s, 255, m)
  | .norm s e m => (s, e, m)

/-- The extractor reads the row's fields back from its word. -/
def WordShape.Statement (i : Instr) : Prop :=
  (sign (encode i), exponent (encode i), mantissa (encode i)) = fieldsOf i

/-- The extractor on a packed word. -/
theorem fields_pack (s : BitVec 1) (e : BitVec 8) (m : BitVec 23) :
    (sign (pack s e m), exponent (pack s e m), mantissa (pack s e m)) = (s, e, m) := by
  rw [sign_pack, exponent_pack, mantissa_pack]

theorem WordShape.pz : WordShape.Statement .pz := fields_pack _ _ _
theorem WordShape.nz : WordShape.Statement .nz := fields_pack _ _ _
theorem WordShape.den (s : BitVec 1) (m : BitVec 23) : WordShape.Statement (.den s m) := fields_pack _ _ _
theorem WordShape.pinf : WordShape.Statement .pinf := fields_pack _ _ _
theorem WordShape.ninf : WordShape.Statement .ninf := fields_pack _ _ _
theorem WordShape.nan (s : BitVec 1) (m : BitVec 23) : WordShape.Statement (.nan s m) := fields_pack _ _ _
theorem WordShape.norm (s : BitVec 1) (e : BitVec 8) (m : BitVec 23) : WordShape.Statement (.norm s e m) :=
  fields_pack _ _ _

end Sys2Proof.Laws
end

