-- ==== Sys2Proof/Tests/Slice0.lean ====
section
/-! SUPPORT. Checks of the model against the spec's own words and tables, and for every statement with hypotheses a
concrete case that meets them. Expected values are the spec's: 95_test_vectors.md and the examples of the rules. -/

namespace Sys2Proof.Tests

open Sys2Proof Sys2Proof.Machine

/-- A state whose input holds `w` and whose host has read nothing. -/
def holding (w : Word) : State := { valueI := w, tagsRead := [] }

/-- The code read in one step. -/
def codeAfter (s : State) : Option TagCode :=
  match step s with
  | .next t => t.tagsRead.getLast?
  | .fault _ => none
  | .refused _ => none

/-- The code read by the call on one row, where the output shows that code too. -/
def codeOf (i : Instr) : Option TagCode :=
  match exec i (holding 0x12345678) with
  | .next t => if t.tagsRead = [t.tagO] then some t.tagO else none
  | .fault _ => none
  | .refused _ => none

/-! ### WellFormed refuses each ill-formed term -/

theorem test_wf_den_zero_mantissa_refused : Instr.wf (.den 1#1 0#23) = false := by decide
theorem test_wf_nan_zero_mantissa_refused : Instr.wf (.nan 0#1 0#23) = false := by decide
theorem test_wf_norm_exponent_0_refused : Instr.wf (.norm 0#1 0#8 1#23) = false := by decide
theorem test_wf_norm_exponent_255_refused : Instr.wf (.norm 0#1 255#8 1#23) = false := by decide
theorem test_wf_norm_ends_accepted : (Instr.wf (.norm 0#1 1#8 0#23) && Instr.wf (.norm 1#1 254#8 0#23)) = true := by decide

/-! ### Each constructor's decoding, from the pattern of 30_encoding.md R57 written bit by bit -/

theorem test_decode_pz : decode 0b0_00000000_00000000000000000000000#32 = .pz := by decide
theorem test_decode_nz : decode 0b1_00000000_00000000000000000000000#32 = .nz := by decide
theorem test_decode_den : decode 0b1_00000000_10100000000000000000001#32 = .den 1#1 0b10100000000000000000001#23 := by decide
theorem test_decode_pinf : decode 0b0_11111111_00000000000000000000000#32 = .pinf := by decide
theorem test_decode_ninf : decode 0b1_11111111_00000000000000000000000#32 = .ninf := by decide
theorem test_decode_nan : decode 0b0_11111111_01100000000000000000001#32 = .nan 0#1 0b01100000000000000000001#23 := by decide
theorem test_decode_norm : decode 0b1_10000000_10010010000111111011011#32 = .norm 1#1 0b10000000#8 0b10010010000111111011011#23 := by
  decide

/-- opcode_table.json numbers a row's bits as the word's: a NaN row's word through the table decoder. -/
theorem test_table_word_nan : decodeTableWord 32 0x7FC00000 = some (.nan 0#1 0x400000#23) := by decide
theorem test_table_word_short : decodeTableWord 8 1 = some (.den 0#1 1#23) := by decide
theorem test_table_word_too_wide : decodeTableWord 40 1 = none := by decide
theorem test_table_word_number_cut_to_its_bits : decodeTableWord 32 0x100000000 = some .pz ∧ tableWord 8 0x1FF = 0xFF#32 := by decide
theorem test_table_word_keeps_low_bits : tableWord 40 0xAB7F800000 = 0x7F800000#32 := by decide
theorem test_encode_norm : encode (.norm 1#1 128#8 0x490FDB#23) = 0xC0490FDB#32 := by decide

/-! ### Extractor and decoder vectors (95_test_vectors.md 2.1, 2.2) -/

theorem test_extract_alternating :
    (sign 0xAAAAAAAA#32, exponent 0xAAAAAAAA#32, mantissa 0xAAAAAAAA#32) = (1#1, 0x55#8, 0x2AAAAA#23) := by decide
theorem test_extract_all_ones :
    (sign 0xFFFFFFFF#32, exponent 0xFFFFFFFF#32, mantissa 0xFFFFFFFF#32) = (1#1, 0xFF#8, 0x7FFFFF#23) := by decide
theorem test_extract_bit_22_and_23 :
    (exponent 0x00800000#32, mantissa 0x00800000#32, exponent 0x00400000#32, mantissa 0x00400000#32) =
      (1#8, 0#23, 0#8, 0x400000#23) := by decide
theorem test_exp_mid_ends :
    (expMid 0#8, expMid 1#8, expMid 254#8, expMid 255#8) = (false, true, true, false) := by decide
theorem test_number_of_tags : Tag.all.length = Config.params.nTags := by decide
theorem test_man_zero_one_bit : (manZero 1#23, manZero 0x400000#23, manZero 0#23) = (false, false, true) := by decide

/-! ### One step on a word of each row: the source's scenario (95_test_vectors.md 1.2) and each row's edges (2.4) -/

theorem test_step_positive_zero : codeAfter (holding 0x00000000) = some 0#3 := by decide
theorem test_step_negative_zero : codeAfter (holding 0x80000000) = some 1#3 := by decide
theorem test_step_smallest_subnormal : codeAfter (holding 0x00000001) = some 3#3 := by decide
theorem test_step_largest_subnormal_negative : codeAfter (holding 0x807FFFFF) = some 3#3 := by decide
theorem test_step_positive_infinity : codeAfter (holding 0x7F800000) = some 4#3 := by decide
theorem test_step_negative_infinity : codeAfter (holding 0xFF800000) = some 5#3 := by decide
theorem test_step_signaling_nan : codeAfter (holding 0x7F800001) = some 6#3 := by decide
theorem test_step_all_ones : codeAfter (holding 0xFFFFFFFF) = some 6#3 := by decide
theorem test_step_smallest_normal : codeAfter (holding 0x00800000) = some 2#3 := by decide
theorem test_step_most_negative_finite : codeAfter (holding 0xFF7FFFFF) = some 2#3 := by decide

/-- The row runs on its operands and not on what the input happened to hold, and the output shows the code it read. -/
theorem test_exec_den_reads_operands : codeOf (.den 1#1 0x7FFFFF#23) = some 3#3 := by decide
theorem test_exec_nan_reads_operands : codeOf (.nan 1#1 0x200000#23) = some 6#3 := by decide
theorem test_exec_norm_reads_operands : codeOf (.norm 0#1 254#8 0#23) = some 2#3 := by decide

/-- 10_state.md R27: no step lies between a word and its code. -/
theorem test_output_follows_the_input : ((holding 0x7FC00000).tagO, (State.reset.drive 0xFF800000#32).tagO) = (6#3, 5#3) := by decide

/-- The first three words of 95_test_vectors.md P1. -/
theorem test_program_p1_start : runWords [0x00000000#32, 0x80000000#32, 0x00800000#32] (holding 0xFFFFFFFF) =
    .next { valueI := 0x00800000#32, tagsRead := [0#3, 1#3, 2#3] } := rfl

/-- The word placed for the host runs in the very next step after reset. -/
theorem test_placed_word_runs_after_reset : codeAfter (State.reset.withFetchWord 32 0xFF800000) = some 5#3 := by decide

/-! ### The host's mistakes (95_test_vectors.md P5) and the written form (30_encoding.md R64) -/

theorem test_reversed_one : reverseBytes 0x3F800000#32 = 0x0000803F#32 := by decide
theorem test_reversed_one_is_denormalized : codeAfter (holding (reverseBytes 0x3F800000)) = some 3#3 := by decide
theorem test_written_example : writeCall 0x807FFFFF#32 =
    ['C', 'L', 'A', 'S', 'S', 'I', 'F', 'Y', ' ', '0', 'x', '8', '0', '7', 'F', 'F', 'F', 'F', 'F', ' ', '-', '>', ' ',
     'D', 'e', 'n', 'o', 'r', 'm', 'a', 'l', 'i', 'z', 'e', 'd', 'N', 'u', 'm', 'b', 'e', 'r', ' ', '(', '3', ')'] := by decide
theorem test_read_nine_digits_refused : readWord (writeWord 0#32 ++ ['0']) = none := by decide

/-! ### The static check (95_test_vectors.md 2.7) -/

/-- Whether a build of these sizes gives a block. -/
def builds (p : Params) : Bool := layoutConforms p && boundsConform p

theorem test_build_fixed_sizes : builds Config.params = true := by decide
theorem test_build_double_refused : builds { Config.params with width := 64 } = false := by decide
theorem test_build_half_layout_refused : builds { Config.params with eBits := 5, mBits := 10 } = false := by decide
theorem test_build_mistyped_mask_refused : builds { Config.params with mMask := 0x3FFFFF } = false := by decide

/-! ### Witnesses: what each statement's hypotheses ask can be had -/

theorem witness_ReinterpretKeepsEveryBit : 31 < 32 ∧ 0 < 32 := by decide
theorem witness_ExponentIsTheMaskedShift : 7 < 8 ∧ 0 < 8 := by decide
theorem witness_MantissaIsTheLowBits : 22 < 23 ∧ 0 < 23 := by decide
theorem witness_WordIsTheWeightedSumOfItsFields : 2 ^ 32 - 1 < 2 ^ 32 ∧ 0 < 2 ^ 32 := by decide
theorem witness_DecoderTestsAreTheCellValues : (0x400000#23).getLsbD 22 = true ∧ (1#23).getLsbD 0 = true := by decide
theorem witness_TagCodesInListedOrder : tagCode .notANumber = tagCode .notANumber := rfl
theorem witness_NoRunEverStops : 0 < 1 := by decide
theorem witness_WrittenLineReadsBackAsItsWord : writeWord 0xFFFFFFFF#32 = writeWord 0xFFFFFFFF#32 := rfl
theorem witness_PositiveZeroRow : (holding 0x00000000).valueI = 0x00000000#32 := rfl
theorem witness_NegativeZeroRow : (holding 0x80000000).valueI = 0x80000000#32 := rfl
theorem witness_PositiveInfinityRow : (holding 0x7F800000).valueI = 0x7F800000#32 := rfl
theorem witness_NegativeInfinityRow : (holding 0xFF800000).valueI = 0xFF800000#32 := rfl

/-- The four ends of the row's two ranges, and an operand. -/
theorem witness_DenormalizedNumberRow :
    ([0x00000001#32, 0x007FFFFF#32, 0x80000001#32, 0x807FFFFF#32].all fun w =>
      expZero (exponent (holding w).valueI) && !manZero (mantissa (holding w).valueI)) = true ∧ (1#23 : BitVec 23) ≠ 0#23 := by
  decide

theorem witness_NotANumberRow :
    ([0x7F800001#32, 0x7FFFFFFF#32, 0xFF800001#32, 0xFFFFFFFF#32].all fun w =>
      expOnes (exponent (holding w).valueI) && !manZero (mantissa (holding w).valueI)) = true ∧
    (0x400000#23 : BitVec 23) ≠ 0#23 := by
  decide

theorem witness_NormalizedNumberRow :
    ([0x00800000#32, 0x7F7FFFFF#32, 0x80800000#32, 0xFF7FFFFF#32].all fun w => expMid (exponent (holding w).valueI)) = true ∧
    1 ≤ (1#8).toNat ∧ (254#8).toNat ≤ 254 := by
  decide

/-- One word for each cell of the decision table. -/
theorem witness_StepComputesTheDecisionTable :
    (exponent 0x00000000#32 = 0#8 ∧ mantissa 0x00000000#32 = 0#23 ∧ sign 0x00000000#32 = 0#1) ∧
    (exponent 0x80000000#32 = 0#8 ∧ mantissa 0x80000000#32 = 0#23 ∧ sign 0x80000000#32 = 1#1) ∧
    (exponent 0x007FFFFF#32 = 0#8 ∧ mantissa 0x007FFFFF#32 ≠ 0#23) ∧
    (exponent 0x7F800000#32 = 255#8 ∧ mantissa 0x7F800000#32 = 0#23 ∧ sign 0x7F800000#32 = 0#1) ∧
    (exponent 0xFF800000#32 = 255#8 ∧ mantissa 0xFF800000#32 = 0#23 ∧ sign 0xFF800000#32 = 1#1) ∧
    (exponent 0x7F800001#32 = 255#8 ∧ mantissa 0x7F800001#32 ≠ 0#23) ∧
    (1 ≤ (exponent 0x00800000#32).toNat ∧ (exponent 0x00800000#32).toNat ≤ 254) := by
  decide

/-- The table's own order is one of the orders. -/
theorem witness_RowOrderDoesNotMatter :
    rowHolds .notANumber 0x7FC00000#32 = true ∧
    List.Perm [Tag.positiveZero, .negativeZero, .denormalizedNumber, .positiveInfinity, .negativeInfinity, .notANumber,
      .normalizedNumber] Tag.all := by
  decide

theorem witness_SignKeptForZerosAndInfinitiesOnly :
    (0x00000001#32 : Word) ≠ 0x00000000#32 ∧ (0x00000001#32 : Word) ≠ 0x80000000#32 ∧
    (0x00000001#32 : Word) ≠ 0x7F800000#32 ∧ (0x00000001#32 : Word) ≠ 0xFF800000#32 := by
  decide

/-- Both ends of every range of the magnitude form. -/
theorem witness_MagnitudeFormGivesTheTag :
    [0x80000000#32, 0x80000001#32, 0x007FFFFF#32, 0x00800000#32, 0x7F7FFFFF#32, 0xFF800000#32, 0x7F800001#32, 0xFFFFFFFF#32].map
      magnitude = [0, 1, 0x007FFFFF, 0x00800000, 0x7F7FFFFF, 0x7F800000, 0x7F800001, 0x7FFFFFFF] := by
  decide

theorem witness_TagChangesAtFourBoundaries : (1 : Nat) < 2 ∧ 0x7FFFFFFE + 1 < 2 ^ 31 ∧ (0 : Nat) < 2 ∧ 0 + 1 < 2 ^ 31 := by decide

theorem witness_CodeSevenIsNeverRead :
    runWords [0x7FC00000#32] State.reset = .next { valueI := 0x7FC00000#32, tagsRead := [6#3] } ∧ (6#3 : TagCode) ≠ 7#3 :=
  ⟨rfl, by decide⟩

theorem witness_OutputCarriesTheTagAndNothingElse :
    call 0x3F800000#32 State.reset = .next { valueI := 0x3F800000#32, tagsRead := [2#3] } ∧
    call 0xBF800000#32 (holding 0x00000001) = .next { valueI := 0xBF800000#32, tagsRead := [2#3] } :=
  ⟨rfl, rfl⟩

theorem witness_NanWordsAreIndistinguishable :
    exponent 0x7FC00000#32 = 255#8 ∧ mantissa 0x7FC00000#32 ≠ 0#23 ∧ exponent 0xFF800001#32 = 255#8 ∧
    mantissa 0xFF800001#32 ≠ 0#23 ∧ ((1#23 : BitVec 23) = 0#23 ↔ (2#23 : BitVec 23) = 0#23) := by
  decide

theorem witness_DecodeOfEncode :
    ([Instr.pz, .nz, .den 1#1 1#23, .pinf, .ninf, .nan 0#1 0x7FFFFF#23, .norm 1#1 254#8 0#23].all Instr.wf) = true := by decide

theorem witness_TableWordsDecodeOnlyAtTheirWidth : 32 ≤ 32 ∧ 32 < 33 ∧ 2 ^ 32 ≤ 2 ^ 32 := by decide

theorem witness_StepRunsTheDecodedRow : decode (holding 0x00000001).valueI = .den 0#1 1#23 := by decide

theorem witness_PlacedInstructionRunsNext : Instr.wf (.nan 1#1 1#23) = true := by decide

theorem witness_EveryRowWritesOnlyTheOutput :
    Instr.wf (.den 0#1 1#23) = true ∧ (holding 0x00000001).valueI = encode (.den 0#1 1#23) := by decide

/-- A coherent record with a code in it, a step and a row from it. -/
theorem witness_CoherentRecordIsKept :
    Coherent { valueI := 0x00000001#32, tagsRead := [6#3] } ∧
    step { valueI := 0x00000001#32, tagsRead := [6#3] } = .next { valueI := 0x00000001#32, tagsRead := [6#3, 3#3] } ∧
    exec .nz { valueI := 0x00000001#32, tagsRead := [6#3] } = .next { valueI := 0x80000000#32, tagsRead := [6#3, 1#3] } := by
  refine ⟨fun c h => ⟨0x7FC00000#32, ?_⟩, rfl, rfl⟩
  rw [List.mem_singleton.mp h]
  decide

theorem witness_OutputIsAFunctionOfTheInputAlone :
    (holding 0x7FC00000).valueI = ({ valueI := 0x7FC00000#32, tagsRead := [0#3] } : State).valueI := rfl

theorem witness_EvaluationIsIdempotent :
    step (holding 0x00000000) = .next { valueI := 0x00000000#32, tagsRead := [0#3] } ∧
    ({ valueI := 0x00000000#32, tagsRead := [5#3] } : State).valueI = (holding 0x00000000).valueI ∧
    step { valueI := 0x00000000#32, tagsRead := [5#3] } = .next { valueI := 0x00000000#32, tagsRead := [5#3, 0#3] } :=
  ⟨rfl, rfl, rfl⟩

theorem witness_CodesReadDependOnTheWordsAlone : [1#32, 0x7F800000#32].getLast? = some 0x7F800000#32 := rfl

theorem witness_MixtureIsClassifiedAsItStands : (holding 0x7F7FFFFF).valueI = 0x7F7FFFFF#32 := rfl

/-- A quieted signaling NaN, and a word that is no NaN. -/
theorem witness_AlteredNanCopyKeepsTheTag :
    hostCopies 0x7FA00000#32 0x7FE00000#32 ∧ hostCopies 0x80000000#32 0x80000000#32 ∧
    isNanWord 0x7FA00000#32 = true ∧ 0x00400000#32 &&& 0xFF800000#32 = 0#32 := by
  unfold hostCopies
  decide

theorem witness_OnlyTheFixedSizesBuild :
    Config.params = ⟨32, 1, 8, 23, 23, 31, 255, 8388607, 255, 1, 254, 7⟩ ∧
    ¬ ({ Config.params with nTags := 8 } : Params).nTags = 7 := by
  decide

/-- A platform that conforms, and one that does not. -/
theorem witness_NonConformingPlatformIsRefused :
    Platform.isBinary32 ⟨32, 2, true, true, true, true⟩ = true ∧ Platform.isBinary32 ⟨32, 2, true, true, true, false⟩ = false ∧
    elaborateOn ⟨64, 2, true, true, true, true⟩ Config.params = .error .platformNonConformance :=
  ⟨by decide, by decide, rfl⟩

/-- A block whose input is held from the moment 0 on and was another word before. -/
theorem witness_SameStableWordSameCode :
    TimedBlock 1 (fun t => if t < 0 then 0x7FC00000#32 else 0x00000000#32)
      (fun t => tagCode (classify (if t < 0 then 0x7FC00000#32 else 0x00000000#32))) ∧
    HeldFor (fun t => if t < 0 then 0x7FC00000#32 else 0x00000000#32) 1 1 ∧
    HeldFor (fun t => if t < 0 then 0x7FC00000#32 else 0x00000000#32) 1 2 := by
  refine ⟨⟨by norm_num, fun t _ => rfl⟩, fun u h _ => ?_, fun u h _ => ?_⟩
  · have h0 : ¬ u < 0 := by linarith
    simp [h0]
  · have h0 : ¬ u < 0 := by linarith
    simp [h0]

theorem witness_HeldWordShowsItsCodeFromThenOn :
    TimedBlock 1 (fun t => if t < 0 then 0x7FC00000#32 else 0x00000000#32)
      (fun t => tagCode (classify (if t < 0 then 0x7FC00000#32 else 0x00000000#32))) ∧
    (∀ u : ℝ, 0 ≤ u → (if u < 0 then 0x7FC00000#32 else 0x00000000#32) = 0x00000000#32) ∧ (0 : ℝ) + 1 ≤ 1 := by
  refine ⟨witness_SameStableWordSameCode.1, fun u h => ?_, by norm_num⟩
  rw [if_neg (by linarith)]

/-- A moment at which the input has not been held for the delay. -/
theorem witness_OnlyHeldInputsAreGuaranteed :
    (0 : ℝ) < 1 ∧ (0 : ℝ) - 1 ≤ -1 ∧ (-1 : ℝ) ≤ 0 ∧
    (if (-1 : ℝ) < 0 then 0x7FC00000#32 else 0x00000000#32) ≠ (if (0 : ℝ) < 0 then 0x7FC00000#32 else 0x00000000#32) ∧
    TimedBlock 1 (fun _ => 0x00000000#32) (fun _ => 0#3) ∧ HeldFor (fun _ => 0x00000000#32) 1 0 := by
  have zero : 0#3 = tagCode (classify 0x00000000#32) := by decide
  refine ⟨by norm_num, by norm_num, by norm_num, ?_, ⟨by norm_num, fun _ _ => zero⟩, fun _ _ _ => rfl⟩
  rw [if_pos (by norm_num), if_neg (by norm_num)]
  decide

/-- A delay, and an input with a moment at which it has not been held. -/
theorem witness_UnsettledOutputIsFreeAtEveryMoment :
    (0 : ℝ) < 1 ∧ ¬ HeldFor (fun t => if t < 0 then 0x7FC00000#32 else 0x00000000#32) 1 0 := by
  refine ⟨by norm_num, fun h => ?_⟩
  have h := h (-1) (by norm_num) (by norm_num)
  beta_reduce at h
  rw [if_pos (by norm_num), if_neg (by norm_num)] at h
  revert h
  decide

/-- Two blocks with different words. -/
theorem witness_BlocksShareNothing : ([holding 0x00000001, holding 0x7F800001] : Bank)[1]? = some (holding 0x7F800001) := rfl

theorem witness_BlocksStepInAnyOrder :
    Bank.stepAt 0 [holding 0x00000001, holding 0x7F800001] =
      .next [{ valueI := 0x00000001#32, tagsRead := [3#3] }, holding 0x7F800001] ∧
    Bank.stepAt 1 [holding 0x00000001, holding 0x7F800001] =
      .next [holding 0x00000001, { valueI := 0x7F800001#32, tagsRead := [6#3] }] ∧ (0 : Nat) ≠ 1 :=
  ⟨rfl, rfl, by decide⟩

end Sys2Proof.Tests
end

