-- ==== Sys2Proof/Proofs/Scope.lean ====
section
/-! SUPPORT. The scope of the block: which sizes build it (00_scope.md R6, R8) and what one step runs (R9). -/

namespace Sys2Proof.Proofs

open Sys2Proof.Machine

/-- The check's own sum of the widths adds nothing once each width is fixed (60_exceptions.md R113). -/
theorem layoutConforms_iff (p : Params) :
    layoutConforms p = true ↔
      p.width = 32 ∧ p.sBits = 1 ∧ p.eBits = 8 ∧ p.mBits = 23 ∧ p.eShift = 23 ∧ p.sShift = 31 ∧ p.eMask = 255 ∧
        p.mMask = 8388607 := by
  simp only [layoutConforms, Bool.and_eq_true, beq_iff_eq]
  omega

theorem boundsConform_iff (p : Params) :
    boundsConform p = true ↔ p.eAllOnes = 255 ∧ p.eNormLo = 1 ∧ p.eNormHi = 254 ∧ p.nTags = 7 := by
  simp only [boundsConform, Bool.and_eq_true, beq_iff_eq, and_assoc]

/-- The elaboration check passes just on the twelve fixed values of 00_scope.md R6. -/
theorem conforms_iff_fixed (p : Params) :
    (layoutConforms p && boundsConform p) = true ↔
      p.width = 32 ∧ p.sBits = 1 ∧ p.eBits = 8 ∧ p.mBits = 23 ∧ p.eShift = 23 ∧ p.sShift = 31 ∧ p.eMask = 255 ∧
        p.mMask = 8388607 ∧ p.eAllOnes = 255 ∧ p.eNormLo = 1 ∧ p.eNormHi = 254 ∧ p.nTags = 7 := by
  simp only [Bool.and_eq_true, layoutConforms_iff, boundsConform_iff, and_assoc]

/-- A step reads its row off `value_i` itself, as the reinterpretation keeps every bit (40_field_extractor.md R70). -/
theorem step_eq_exec_decode (s : State) : step s = exec (decode s.valueI) s := by
  rw [step, State.inputWord_eq]

/-- Settles O51: the elaboration check passes just on the fixed values, and elaboration answers by that check alone. -/
theorem onlyTheFixedSizesBuild : Obligations.OnlyTheFixedSizesBuild := by
  unfold Obligations.OnlyTheFixedSizesBuild
  intro p fixed
  have passes_iff : (layoutConforms p && boundsConform p) = true ↔ fixed := conforms_iff_fixed p
  obtain ⟨passes, built⟩ | ⟨fails, refused⟩ := elaborate_cases p
  · exact ⟨fun _ => built, fun notFixed => absurd (passes_iff.mp passes) notFixed⟩
  · exact ⟨fun isFixed => absurd (passes_iff.mpr isFixed) (Bool.eq_false_iff.mp fails), fun _ => refused⟩

/-- Settles O35: the row that a step runs is the one `value_i` decodes to. -/
theorem stepRunsTheDecodedRow : Obligations.StepRunsTheDecodedRow := by
  unfold Obligations.StepRunsTheDecodedRow
  rintro s i rfl
  exact step_eq_exec_decode s

end Sys2Proof.Proofs
end

