-- ==== Sys2Proof/Proofs/State.lean ====
section
/-! SUPPORT. The state of the host and the output (10_state.md): a call is the host driving a word and reading its code, so
every act of the host keeps its record coherent (R19, R23), and the output is a function of the input (R10, R17, R27). -/

namespace Sys2Proof.Proofs

open Sys2Proof.Machine

/-! ### Every call is a read of the word it presents -/

/-- The mux tree on three fields gives the tag of the decision table (42_classifier.md R98). -/
theorem tagOfFields_eq_classify_pack (s : BitVec 1) (e : BitVec 8) (m : BitVec 23) :
    tagOfFields s e m = classify (pack s e m) := by
  simp only [classify, reinterpret, sign_pack, exponent_pack, mantissa_pack]
  by_cases e_zero : e = 0#8
  · obtain rfl | rfl := sign_cases s <;> by_cases m_zero : m = 0#23 <;>
      simp [tagOfFields_zero, zeroTag, e_zero, m_zero]
  · by_cases e_ones : e = 255#8
    · obtain rfl | rfl := sign_cases s <;> by_cases m_zero : m = 0#23 <;>
        simp [tagOfFields_ones, infTag, e_ones, m_zero]
    · simp [tagOfFields_mid, e_zero, e_ones]

/-- The word of the row that a word decodes to is that word: no bit is lost (30_encoding.md R60). -/
theorem encode_decode (w : Word) : encode (decode w) = w := by
  revert w
  rw [forall_word]
  intro s e m
  rw [decode_pack]
  split_ifs with isPz isNz isDen isPinf isNinf isNan <;> simp [encode, *]

/-- The shared evaluation is the host driving the word of the fields and reading what the output then shows. -/
theorem evaluate_eq_drive_read (s : BitVec 1) (e : BitVec 8) (m : BitVec 23) (st : State) :
    evaluate s e m st = (st.drive (pack s e m)).read := by
  rw [evaluate, State.read, State.drive_tagO, tagOfFields_eq_classify_pack]

/-- Every row, well formed or not, is the host driving the row's word and reading the output. -/
theorem exec_eq_drive_read (i : Instr) (st : State) : exec i st = .next (st.drive (encode i)).read := by
  cases i with
  | pz => rw [exec_pz, evaluate_eq_drive_read, encode]
  | nz => rw [exec_nz, evaluate_eq_drive_read, encode]
  | den s m => rw [exec_den, evaluate_eq_drive_read, encode]
  | pinf => rw [exec_pinf, evaluate_eq_drive_read, encode]
  | ninf => rw [exec_ninf, evaluate_eq_drive_read, encode]
  | nan s m => rw [exec_nan, evaluate_eq_drive_read, encode]
  | norm s e m => rw [exec_norm, evaluate_eq_drive_read, encode]

/-- A step drives the word that is on the input already, so it is a read of the output and no more (20_memory.md R36). -/
theorem step_eq_read (st : State) : step st = .next st.read := by
  rw [step_eq_exec_decode, exec_eq_drive_read, encode_decode, State.drive_self]

/-! ### The host's record -/

/-- Coherence is about the record alone: an act that leaves the record as it is keeps it. -/
theorem coherent_of_tagsRead_eq {st st' : State} (coherent : Coherent st) (same : st'.tagsRead = st.tagsRead) :
    Coherent st' := by
  rwa [Coherent, same]

/-- A read adds the code of the word on the input, which is some word's. -/
theorem coherent_read {st : State} (coherent : Coherent st) : Coherent st.read := by
  intro c hc
  rw [State.read_tagsRead, List.mem_append, List.mem_singleton] at hc
  obtain old | new := hc
  · exact coherent c old
  · exact ⟨st.valueI, new⟩

theorem justRead_read (st : State) : JustRead st.read := by
  rw [JustRead, State.read_tagsRead, State.read_tagO, List.getLast?_concat]

theorem coherent_drive {st : State} (coherent : Coherent st) (w : Word) : Coherent (st.drive w) :=
  coherent_of_tagsRead_eq coherent (State.drive_tagsRead st w)

/-- 30_encoding.md R53: the eighth code is no tag's. -/
theorem tagCode_ne_seven (t : Tag) : tagCode t ≠ 7#3 := by
  cases t <;> decide

theorem seven_notMem_of_coherent {st : State} (coherent : Coherent st) : 7#3 ∉ st.tagsRead := by
  intro seven
  obtain ⟨w, hw⟩ := coherent 7#3 seven
  exact tagCode_ne_seven (classify w) hw.symm

/-- An empty record is coherent, as after power-up (10_state.md R25). -/
theorem coherent_reset : Coherent State.reset := by
  intro c hc
  exact absurd hc List.not_mem_nil

/-! ### The obligations -/

/-- Settles O39: a step and a row are a drive and a read, a read adds the code of the input's tag, and every other act of the
host leaves the record as it is. -/
theorem coherentRecordIsKept : Obligations.CoherentRecordIsKept := by
  unfold Obligations.CoherentRecordIsKept
  refine ⟨?step, ?row, ?drive, ?driveBits, ?read, ?place, ?powerCycle, ?seven⟩
  case step =>
    intro s s' coherent hstep
    rw [step_eq_read] at hstep
    cases hstep
    exact ⟨coherent_read coherent, justRead_read s, State.read_valueI s⟩
  case row =>
    intro i s s' coherent hexec
    rw [exec_eq_drive_read] at hexec
    cases hexec
    exact ⟨coherent_read (coherent_drive coherent (encode i)), justRead_read (s.drive (encode i))⟩
  case drive => exact fun s w coherent => coherent_drive coherent w
  case driveBits => exact fun s mask w coherent => coherent_of_tagsRead_eq coherent (State.driveBits_tagsRead s mask w)
  case read => exact fun s coherent => ⟨coherent_read coherent, justRead_read s⟩
  case place => exact fun s nbits w coherent => coherent_of_tagsRead_eq coherent (State.withFetchWord_tagsRead s nbits w)
  case powerCycle => exact fun s w coherent => coherent_of_tagsRead_eq coherent (State.powerCycle_tagsRead s w)
  case seven => exact fun s coherent => seven_notMem_of_coherent coherent

/-- Settles O41: the reset state holds the zero word and an empty record. -/
theorem resetShowsTheTagOfItsWord : Obligations.ResetShowsTheTagOfItsWord := by
  unfold Obligations.ResetShowsTheTagOfItsWord
  have zero : classify State.reset.valueI = .positiveZero := by decide
  have shown : State.reset.tagO = 0#3 := congrArg tagCode zero
  exact ⟨rfl, zero, shown, rfl, coherent_reset, rfl⟩

/-- Settles O53: at a held moment the output is the code of the word on the input then, with no part of the past in it. -/
theorem sameStableWordSameCode : Obligations.SameStableWordSameCode := by
  unfold Obligations.SameStableWordSameCode
  rintro tPd valueI tagO ⟨-, shows⟩ t u heldT heldU sameWord
  calc tagO t = tagCode (classify (valueI t)) := shows t heldT
    _ = tagCode (classify (valueI u)) := by rw [sameWord]
    _ = tagO u := (shows u heldU).symm

/-- Settles O58: the output is `TAG_CODE` of the tag of the input by definition, and a read adds it. -/
theorem outputIsAFunctionOfTheInputAlone : Obligations.OutputIsAFunctionOfTheInputAlone := by
  unfold Obligations.OutputIsAFunctionOfTheInputAlone
  refine ⟨fun s s' sameInput => State.tagO_congr sameInput, fun w codes => ?_, fun s => ?_⟩
  · rw [State.tagO]
  · rw [State.read_tagsRead, State.tagO]

end Sys2Proof.Proofs
end

