-- ==== Sys2Proof/Proofs/Memory.lean ====
section
/-! SUPPORT. The block has no memory (20_memory.md): its input port is one word (R32), the one transfer has no side effect
(R36, R39), and blocks side by side share nothing (R44). -/

namespace Sys2Proof.Proofs

open Sys2Proof.Machine

/-! ### A word as the sum of its bits' weights -/

/-- The bits set in a number below `2 ^ n` are found below `n`. -/
theorem toFinset_bitIndices_toNat {n : Nat} (w : BitVec n) :
    w.toNat.bitIndices.toFinset = (Finset.range n).filter (w.getLsbD ·) := by
  ext i
  rw [List.mem_toFinset, Nat.mem_bitIndices, BitVec.testBit_toNat, Finset.mem_filter, Finset.mem_range]
  exact ⟨fun isSet => ⟨BitVec.lt_of_getLsbD isSet, isSet⟩, And.right⟩

theorem toNat_eq_sum_bits {n : Nat} (w : BitVec n) :
    w.toNat = ∑ i ∈ Finset.range n, if w.getLsbD i then 2 ^ i else 0 := by
  rw [← Finset.sum_filter, ← toFinset_bitIndices_toNat, Finset.sum_toFinset_bitIndices_two_pow]

/-! ### One step and one drive of a bank -/

/-- A step of block `k` rewrites position `k` by a read of its output; where no block stands, that rewrites nothing. -/
theorem stepAt_eq_modify_read (b : Bank) (k : Nat) : b.stepAt k = .next (b.modify k State.read) := by
  rw [List.modify_eq_set_getElem?]
  cases hk : b[k]? with
  | none => exact Bank.stepAt_absent hk
  | some s => exact Bank.stepAt_present hk (step_eq_read s)

/-- What an act of one block leaves in the bank: its own result at its position, every other block as before. -/
theorem modify_changes_one_block {b : Bank} {k : Nat} {s : State} (present : b[k]? = some s) (act : State → State) :
    (b.modify k act)[k]? = some (act s) ∧ ∀ j, j ≠ k → (b.modify k act)[j]? = b[j]? := by
  refine ⟨?_, fun j other => List.getElem?_modify_ne act b other.symm⟩
  rw [List.getElem?_modify_eq, present, Option.map_eq_map, Option.map_some]

/-! ### The obligations -/

/-- Settles O2: the reinterpretation is the word itself, and a word is the sum of the weights of its set bits. -/
theorem inputPortReadsAsItsBitSum : Obligations.InputPortReadsAsItsBitSum := by
  unfold Obligations.InputPortReadsAsItsBitSum
  intro w
  rw [reinterpret]
  exact toNat_eq_sum_bits w

/-- Settles O40: a step is a read, a read leaves the input as it was, and the output is a function of the input. -/
theorem evaluationIsIdempotent : Obligations.EvaluationIsIdempotent := by
  unfold Obligations.EvaluationIsIdempotent
  refine ⟨fun s => ⟨step_eq_read s, State.read_valueI s, State.read_tagO s⟩, ?again, ?sameInput⟩
  case again =>
    intro s s' hstep
    rw [step_eq_read] at hstep
    cases hstep
    exact ⟨State.read_tagO s, step_eq_read s.read⟩
  case sameInput =>
    intro s s' sameInput t t' hstep hstep'
    rw [step_eq_read] at hstep hstep'
    cases hstep
    cases hstep'
    have sameCode : s.tagO = s'.tagO := State.tagO_congr sameInput
    refine ⟨sameCode, ?_⟩
    rw [justRead_read s, justRead_read s']
    exact congrArg some sameCode

/-- Settles O56: a step and a drive of block `k` are each an act on position `k` of the list and no other. -/
theorem blocksShareNothing : Obligations.BlocksShareNothing := by
  unfold Obligations.BlocksShareNothing
  intro b k s present
  refine ⟨⟨s.read, b.modify k State.read, step_eq_read s, stepAt_eq_modify_read b k, ?step⟩, fun w => ?drive⟩
  case step => exact modify_changes_one_block present State.read
  case drive =>
    rw [Bank.driveAt]
    exact modify_changes_one_block present (State.drive w)

/-- Settles O57: the two steps rewrite different positions of the list, and such rewrites commute. -/
theorem blocksStepInAnyOrder : Obligations.BlocksStepInAnyOrder := by
  unfold Obligations.BlocksStepInAnyOrder
  intro b bj bk j k different hj hk
  rw [stepAt_eq_modify_read] at hj hk
  cases hj
  cases hk
  refine ⟨(b.modify j State.read).modify k State.read, stepAt_eq_modify_read _ k, ?commutes, ?length⟩
  case commutes => rw [stepAt_eq_modify_read, List.modify_modify_ne State.read State.read b different]
  case length => rw [List.length_modify, List.length_modify]

/-- Settles O45: driving writes `value_i` alone, and the output is a function of it. -/
theorem drivingChangesTheInputAlone : Obligations.DrivingChangesTheInputAlone := by
  unfold Obligations.DrivingChangesTheInputAlone
  exact ⟨State.drive_self, fun s w => ⟨State.drive_valueI s w, State.drive_tagO s w, State.drive_tagsRead s w⟩⟩

end Sys2Proof.Proofs
end

