-- ==== Sys2Proof/Proofs/Encoding.lean ====
section
/-! SUPPORT. The encoding (30_encoding.md): decoder and encoder are inverse to each other on well-formed rows (R50, R57, R60),
the decoder, the rows' exact conditions and `classify` name one tag (R58), how many words each tag has (R59), which codes are
shown (R52, R53, R61, R62), and the written line (R64). -/

namespace Sys2Proof.Proofs

open Sys2Proof.Machine

/-! ### The round trip between words and rows -/

/-- R57, row 7: the exponents that are neither all zeros nor all ones are 1 to 254 (41_field_decoder.md R82). -/
theorem exponent_mid_iff (e : BitVec 8) : (1 ≤ e.toNat ∧ e.toNat ≤ 254) ↔ e ≠ 0#8 ∧ e ≠ 255#8 := by
  bv_omega

theorem wf_den_iff (s : BitVec 1) (m : BitVec 23) : (Instr.den s m).wf = true ↔ m ≠ 0#23 := bne_iff_ne

theorem wf_nan_iff (s : BitVec 1) (m : BitVec 23) : (Instr.nan s m).wf = true ↔ m ≠ 0#23 := bne_iff_ne

theorem wf_norm_iff (s : BitVec 1) (e : BitVec 8) (m : BitVec 23) :
    (Instr.norm s e m).wf = true ↔ e ≠ 0#8 ∧ e ≠ 255#8 := by
  rw [← exponent_mid_iff, Instr.wf, Bool.and_eq_true, decide_eq_true_iff, decide_eq_true_iff]

/-- Where the two rows for a zero mantissa, one per sign, do not hit, the mantissa is not 0 (R58, rows 3 and 6). -/
theorem mantissa_ne_zero_of_not_signed {s : BitVec 1} {e e₀ : BitVec 8} {m : BitVec 23}
    (not_positive : ¬ (s = 0#1 ∧ e = e₀ ∧ m = 0#23)) (not_negative : ¬ (s = 1#1 ∧ e = e₀ ∧ m = 0#23))
    (exponent_eq : e = e₀) : m ≠ 0#23 := by
  intro zero
  obtain positive | negative := sign_cases s
  · exact not_positive ⟨positive, exponent_eq, zero⟩
  · exact not_negative ⟨negative, exponent_eq, zero⟩

/-- What the earlier rows leave to a row meets that row's exact condition (R58). -/
theorem decode_wf (w : Word) : (decode w).wf = true := by
  revert w
  rw [forall_word]
  intro s e m
  rw [decode_pack]
  split_ifs with isPz isNz isDen isPinf isNinf isNan
  · rfl
  · rfl
  · exact (wf_den_iff s m).mpr (mantissa_ne_zero_of_not_signed isPz isNz isDen)
  · rfl
  · rfl
  · exact (wf_nan_iff s m).mpr (mantissa_ne_zero_of_not_signed isPinf isNinf isNan)
  · exact (wf_norm_iff s e m).mpr ⟨isDen, isNan⟩

/-- No row before a well-formed row hits its word. -/
theorem decode_encode {i : Instr} (wf : i.wf = true) : decode (encode i) = i := by
  cases i with
  | pz => rw [encode, decode_pack]; simp
  | nz => rw [encode, decode_pack]; simp
  | den s m =>
    rw [wf_den_iff] at wf
    rw [encode, decode_pack]; simp [wf]
  | pinf => rw [encode, decode_pack]; simp
  | ninf => rw [encode, decode_pack]; simp
  | nan s m =>
    rw [wf_nan_iff] at wf
    rw [encode, decode_pack]; simp [wf]
  | norm s e m =>
    obtain ⟨not_zero, not_ones⟩ := (wf_norm_iff s e m).mp wf
    rw [encode, decode_pack]; simp [not_zero, not_ones]

/-- A word that is a well-formed row's decodes to that row. -/
theorem decode_eq_of_encode_eq {i : Instr} {w : Word} (wf : i.wf = true) (word : encode i = w) : decode w = i :=
  word ▸ decode_encode wf

/-- Settles O31: the decoder's tests on the row's own fields pass over every earlier row. -/
theorem decodeOfEncode : Obligations.DecodeOfEncode := by
  unfold Obligations.DecodeOfEncode
  exact fun i wf => decode_encode wf

/-- Settles O32: the first row hit is well formed, and its fixed cells and operands are all the bits of the word. -/
theorem encodeOfDecode : Obligations.EncodeOfDecode := by
  unfold Obligations.EncodeOfDecode
  exact fun w => ⟨decode_wf w, encode_decode w⟩

/-- Settles O7: a word's value is that of its packed fields, and packing is injective. -/
theorem wordIsTheWeightedSumOfItsFields : Obligations.WordIsTheWeightedSumOfItsFields := by
  unfold Obligations.WordIsTheWeightedSumOfItsFields
  refine ⟨toNat_eq_fields, fun n hn => ?_⟩
  obtain ⟨w, rfl⟩ : ∃ w : Word, w.toNat = n := ⟨BitVec.ofNatLT n hn, BitVec.toNat_ofNatLT n hn⟩
  refine ⟨(sign w, exponent w, mantissa w), toNat_eq_fields w, ?unique⟩
  rintro ⟨s, e, m⟩ sum
  have word : w = pack s e m := BitVec.eq_of_toNat_eq (sum.trans (pack_toNat s e m).symm)
  rw [word, sign_pack, exponent_pack, mantissa_pack]

/-- Settles O33: each sample is, bit for bit, the word of a well-formed row. -/
theorem sampleWordsDecode : Obligations.SampleWordsDecode := by
  unfold Obligations.SampleWordsDecode
  refine ⟨?pz, ?nz, ?den, ?pinf, ?ninf, ?nan, ?norm⟩ <;> exact decode_eq_of_encode_eq (by decide) (by decide)

/-! ### Patterns of other widths -/

theorem decodeRaw_of_lt {w : Nat} (fits : w < 2 ^ 32) : decodeRaw w = .ok (decode (BitVec.ofNat 32 w)) :=
  if_pos fits

theorem decodeRaw_of_le {w : Nat} (wide : 2 ^ 32 ≤ w) : decodeRaw w = .error .notThirtyTwoBits :=
  if_neg (Nat.not_lt.mpr wide)

/-- Settles O34: a number cut to at most 32 bits fits the port, and cutting one to more than 32 keeps its low 32. -/
theorem tableWordsDecodeOnlyAtTheirWidth : Obligations.TableWordsDecodeOnlyAtTheirWidth := by
  unfold Obligations.TableWordsDecodeOnlyAtTheirWidth
  refine ⟨fun nbits w narrow => ?narrow, fun nbits w wide => ?wide, fun w wide => decodeRaw_of_le wide,
    fun nbits w wide => ?low⟩
  case narrow =>
    have fits : w % 2 ^ nbits < 2 ^ 32 :=
      (Nat.mod_lt w (Nat.two_pow_pos nbits)).trans_le (Nat.pow_le_pow_right Nat.two_pos narrow)
    rw [decodeTableWord, if_pos narrow, decodeRaw_of_lt fits]
  case wide => exact if_neg (Nat.not_le.mpr wide)
  case low =>
    apply BitVec.eq_of_toNat_eq
    rw [tableWord, BitVec.toNat_ofNat, BitVec.toNat_ofNat, Nat.mod_mod_of_dvd w (Nat.pow_dvd_pow 2 wide.le)]

/-! ### The tag of a row -/

/-- The tag column of R57. -/
def tagOfRow : Instr → Tag
  | .pz => .positiveZero
  | .nz => .negativeZero
  | .den _ _ => .denormalizedNumber
  | .pinf => .positiveInfinity
  | .ninf => .negativeInfinity
  | .nan _ _ => .notANumber
  | .norm _ _ _ => .normalizedNumber

/-- Walking the table and decoding try the same rows in the same order (R58). -/
theorem firstHit_eq_tagOfRow_decode (w : Word) : firstHit w = some (tagOfRow (decode w)) := by
  simp only [firstHit, classMap, List.find?, decode, rowNorm_hits]
  cases rowPz.hits w <;> [skip; rfl]
  cases rowNz.hits w <;> [skip; rfl]
  cases rowDen.hits w <;> [skip; rfl]
  cases rowPinf.hits w <;> [skip; rfl]
  cases rowNinf.hits w <;> [skip; rfl]
  cases rowNan.hits w <;> rfl

/-- The decision table gives a well-formed row's word the row's own tag (42_classifier.md R90). -/
theorem classify_encode {i : Instr} (wf : i.wf = true) : classify (encode i) = tagOfRow i := by
  cases i with
  | pz => decide
  | nz => decide
  | den s m => rw [encode, ← tagOfFields_eq_classify_pack, tagOfFields_zero, if_neg ((wf_den_iff s m).mp wf), tagOfRow]
  | pinf => decide
  | ninf => decide
  | nan s m => rw [encode, ← tagOfFields_eq_classify_pack, tagOfFields_ones, if_neg ((wf_nan_iff s m).mp wf), tagOfRow]
  | norm s e m =>
    obtain ⟨not_zero, not_ones⟩ := (wf_norm_iff s e m).mp wf
    rw [encode, ← tagOfFields_eq_classify_pack, tagOfFields_mid s m not_zero not_ones, tagOfRow]

theorem classify_eq_tagOfRow_decode (w : Word) : classify w = tagOfRow (decode w) := by
  rw [← classify_encode (decode_wf w), encode_decode]

theorem expMid_iff (e : BitVec 8) : expMid e = true ↔ e ≠ 0#8 ∧ e ≠ 255#8 := by
  rw [← exponent_mid_iff, expMid, Bool.and_eq_true, decide_eq_true_iff, decide_eq_true_iff]

/-- The exact conditions of R57, each on the fields of a word. -/
theorem rowHolds_pack (t : Tag) (s : BitVec 1) (e : BitVec 8) (m : BitVec 23) : rowHolds t (pack s e m) = true ↔
    match t with
    | .positiveZero => s = 0#1 ∧ e = 0#8 ∧ m = 0#23
    | .negativeZero => s = 1#1 ∧ e = 0#8 ∧ m = 0#23
    | .denormalizedNumber => e = 0#8 ∧ m ≠ 0#23
    | .positiveInfinity => s = 0#1 ∧ e = 255#8 ∧ m = 0#23
    | .negativeInfinity => s = 1#1 ∧ e = 255#8 ∧ m = 0#23
    | .notANumber => e = 255#8 ∧ m ≠ 0#23
    | .normalizedNumber => e ≠ 0#8 ∧ e ≠ 255#8 := by
  cases t <;> simp [rowHolds, sign_pack, exponent_pack, mantissa_pack, expMid_iff, expZero, expOnes, manZero] <;> tauto

/-- Of all exact conditions, a well-formed row's word meets its own row's and no other (42_classifier.md R100). -/
theorem rowHolds_encode_iff {i : Instr} (wf : i.wf = true) (t : Tag) : rowHolds t (encode i) = true ↔ tagOfRow i = t := by
  cases i with
  | pz => cases t <;> decide
  | nz => cases t <;> decide
  | den s m =>
    rw [wf_den_iff] at wf
    rw [encode, rowHolds_pack]; cases t <;> simp [tagOfRow, wf]
  | pinf => cases t <;> decide
  | ninf => cases t <;> decide
  | nan s m =>
    rw [wf_nan_iff] at wf
    rw [encode, rowHolds_pack]; cases t <;> simp [tagOfRow, wf]
  | norm s e m =>
    rw [wf_norm_iff] at wf
    rw [encode, rowHolds_pack]; cases t <;> simp [tagOfRow, wf]

/-- A word meets the exact condition of the tag it has and of no other (R57). -/
theorem rowHolds_iff_classify (t : Tag) (w : Word) : rowHolds t w = true ↔ classify w = t := by
  rw [classify_eq_tagOfRow_decode, ← rowHolds_encode_iff (decode_wf w), encode_decode]

/-- Settles O18: the table walk is the decoder's, the decoded row's tag is the one `classify` gives, and its exact condition
is the only one the word meets. -/
theorem firstHitIsTheExactRow : Obligations.FirstHitIsTheExactRow := by
  unfold Obligations.FirstHitIsTheExactRow
  have first_eq (w : Word) : firstHit w = some (classify w) := by
    rw [firstHit_eq_tagOfRow_decode, classify_eq_tagOfRow_decode]
  refine ⟨rfl, fun w => ⟨first_eq w, fun t => ?exact⟩, ?widened⟩
  case exact => rw [first_eq, rowHolds_iff_classify, Option.some_inj]
  case widened =>
    rw [forall_word]
    intro s e m
    rw [exponent_pack]
    exact ⟨rowDen_hits s e m, rowNan_hits s e m, rowNorm_hits _⟩

/-! ### How many words a tag has -/

theorem natCard_bitVec (n : Nat) : Nat.card (BitVec n) = 2 ^ n := by
  rw [Nat.card_congr BitVec.equivFin.toEquiv, Nat.card_fin]

/-- `pack` on a triple of fields. -/
def packFields (f : BitVec 1 × BitVec 8 × BitVec 23) : Word := pack f.1 f.2.1 f.2.2

theorem packFields_injective : Function.Injective packFields := by
  rintro ⟨s, e, m⟩ ⟨s', e', m'⟩ same
  obtain ⟨rfl, rfl, rfl⟩ := pack_inj.mp same
  rfl

/-- The words whose fields range over three sets, each field free of the others, are counted by the product. -/
theorem card_words_of_fields {P : Word → Prop} {S : Set (BitVec 1)} {E : Set (BitVec 8)} {M : Set (BitVec 23)}
    (h : ∀ s e m, P (pack s e m) ↔ s ∈ S ∧ e ∈ E ∧ m ∈ M) :
    Nat.card { w : Word // P w } = S.ncard * (E.ncard * M.ncard) := by
  have image : { w | P w } = packFields '' (S ×ˢ E ×ˢ M) := by
    ext w
    constructor
    · intro hw
      exact ⟨(sign w, exponent w, mantissa w), (h _ _ _).mp ((pack_fields w).symm ▸ hw), pack_fields w⟩
    · rintro ⟨⟨s, e, m⟩, inSets, rfl⟩
      exact (h s e m).mpr inSets
  calc Nat.card { w : Word // P w } = (packFields '' (S ×ˢ E ×ˢ M)).ncard := congrArg Set.ncard image
    _ = (S ×ˢ E ×ˢ M).ncard := Set.ncard_image_of_injective _ packFields_injective
    _ = S.ncard * (E.ncard * M.ncard) := by rw [Set.ncard_prod, Set.ncard_prod]

/-- The words of a tag whose exact condition puts one set on each field. -/
theorem card_words_of_tag {t : Tag} {S : Set (BitVec 1)} {E : Set (BitVec 8)} {M : Set (BitVec 23)}
    (h : ∀ s e m, rowHolds t (pack s e m) = true ↔ s ∈ S ∧ e ∈ E ∧ m ∈ M) :
    Nat.card { w : Word // classify w = t } = S.ncard * (E.ncard * M.ncard) :=
  card_words_of_fields fun s e m => (rowHolds_iff_classify t _).symm.trans (h s e m)

/-- A tag whose exact condition fixes all three fields has one word. -/
theorem card_words_of_fixed_fields {t : Tag} {s₀ : BitVec 1} {e₀ : BitVec 8}
    (h : ∀ s e m, rowHolds t (pack s e m) = true ↔ s = s₀ ∧ e = e₀ ∧ m = 0#23) :
    Nat.card { w : Word // classify w = t } = 1 := by
  rw [card_words_of_tag (S := {s₀}) (E := {e₀}) (M := {0#23}) h]
  simp only [Set.ncard_singleton]

/-- A tag whose exact condition fixes the exponent and asks for a mantissa not 0 has `2 * (2 ^ 23 - 1)` words. -/
theorem card_words_of_mantissa_ne_zero {t : Tag} {e₀ : BitVec 8}
    (h : ∀ s e m, rowHolds t (pack s e m) = true ↔ e = e₀ ∧ m ≠ 0#23) :
    Nat.card { w : Word // classify w = t } = 2 * (2 ^ 23 - 1) := by
  rw [card_words_of_tag (S := Set.univ) (E := {e₀}) (M := {0#23}ᶜ) fun s e m => (h s e m).trans (by simp)]
  rw [Set.ncard_univ, Set.ncard_compl, Set.ncard_singleton, Set.ncard_singleton, natCard_bitVec, natCard_bitVec]
  norm_num

theorem card_normalizedNumber : Nat.card { w : Word // classify w = .normalizedNumber } = 2 * 254 * 2 ^ 23 := by
  rw [card_words_of_tag (S := Set.univ) (E := {0#8, 255#8}ᶜ) (M := Set.univ)
    fun s e m => (rowHolds_pack .normalizedNumber s e m).trans (by simp)]
  rw [Set.ncard_univ, Set.ncard_univ, Set.ncard_compl, Set.ncard_pair (by decide), natCard_bitVec, natCard_bitVec,
    natCard_bitVec]
  norm_num

/-- Settles O25: each exact condition restricts the three fields apart, so its words are counted by a product. -/
theorem wordsPerTag : Obligations.WordsPerTag := by
  unfold Obligations.WordsPerTag
  exact ⟨card_words_of_fixed_fields (rowHolds_pack .positiveZero), card_words_of_fixed_fields (rowHolds_pack .negativeZero),
    card_words_of_mantissa_ne_zero (rowHolds_pack .denormalizedNumber),
    card_words_of_fixed_fields (rowHolds_pack .positiveInfinity), card_words_of_fixed_fields (rowHolds_pack .negativeInfinity),
    card_words_of_mantissa_ne_zero (rowHolds_pack .notANumber), card_normalizedNumber, by norm_num⟩

/-! ### The codes and the calls that read them -/

theorem mem_allTags (t : Tag) : t ∈ Tag.all := by
  cases t <;> decide

/-- R52: one code per tag. -/
theorem tagCode_injective : Function.Injective tagCode := fun t u =>
  List.inj_on_of_nodup_map (by decide : (Tag.all.map tagCode).Nodup) (mem_allTags t) (mem_allTags u)

/-- R53: the codes are all the three-bit values but 7. -/
theorem exists_tagCode_eq {c : TagCode} (not_seven : c ≠ 7#3) : ∃ t : Tag, tagCode t = c := by
  have codes : ∀ c : TagCode, c ≠ 7#3 → c ∈ Tag.all.map tagCode := by decide
  obtain ⟨t, -, code⟩ := List.mem_map.mp (codes c not_seven)
  exact ⟨t, code⟩

/-- Every row is well formed for some operands, so every tag has a word (42_classifier.md R99). -/
theorem exists_classify_eq (t : Tag) : ∃ w : Word, classify w = t := by
  have row : ∃ i : Instr, i.wf = true ∧ tagOfRow i = t := by
    cases t with
    | positiveZero => exact ⟨.pz, rfl, rfl⟩
    | negativeZero => exact ⟨.nz, rfl, rfl⟩
    | normalizedNumber => exact ⟨.norm 0#1 1#8 0#23, rfl, rfl⟩
    | denormalizedNumber => exact ⟨.den 0#1 1#23, rfl, rfl⟩
    | positiveInfinity => exact ⟨.pinf, rfl, rfl⟩
    | negativeInfinity => exact ⟨.ninf, rfl, rfl⟩
    | notANumber => exact ⟨.nan 0#1 1#23, rfl, rfl⟩
  obtain ⟨i, wf, tag⟩ := row
  exact ⟨encode i, (classify_encode wf).trans tag⟩

/-- A call drives its word and reads the output. -/
theorem call_eq (w : Word) (st : State) : call w st = .next (st.drive w).read := step_eq_read (st.drive w)

/-- A run of words never stops, and its record gains the code of each word in order. -/
theorem exists_runWords_eq (ws : List Word) (st : State) :
    ∃ t : State, runWords ws st = .next t ∧ t.tagsRead = st.tagsRead ++ ws.map fun w => tagCode (classify w) := by
  induction ws generalizing st with
  | nil => exact ⟨st, runWords_nil st, by simp⟩
  | cons w ws ih =>
    obtain ⟨t, run, record⟩ := ih (st.drive w).read
    exact ⟨t, by rw [runWords_cons st (call_eq w st), run], by simp [record]⟩

/-- The tag depends on the mantissa only through whether it is zero (R61). -/
theorem classify_pack_congr {m m' : BitVec 23} (s : BitVec 1) (e : BitVec 8) (same : m = 0#23 ↔ m' = 0#23) :
    classify (pack s e m) = classify (pack s e m') := by
  have zero : manZero m = manZero m' := by simp only [manZero, Bool.beq_eq_decide_eq, same]
  rw [← tagOfFields_eq_classify_pack, ← tagOfFields_eq_classify_pack, tagOfFields, tagOfFields, zero]

theorem classify_of_nan {w : Word} (ones : exponent w = 255#8) (payload : mantissa w ≠ 0#23) : classify w = .notANumber := by
  rw [← rowHolds_iff_classify, ← pack_fields w, rowHolds_pack]
  exact ⟨ones, payload⟩

/-- Settles O27: the codes of the listed tags are 0 to 6, each once. -/
theorem tagCodesInListedOrder : Obligations.TagCodesInListedOrder := by
  unfold Obligations.TagCodesInListedOrder
  exact ⟨rfl, tagCode_injective, mem_allTags, by decide, rfl⟩

/-- Settles O28: every code shown or read is some tag's, no tag's is 7, and every other is the code of a tag that has a
word. -/
theorem codeSevenIsNeverRead : Obligations.CodeSevenIsNeverRead := by
  unfold Obligations.CodeSevenIsNeverRead
  refine ⟨fun s => tagCode_ne_seven (classify s.valueI), ?runs, ?others⟩
  case runs =>
    intro ws s t run
    obtain ⟨t', run', record⟩ := exists_runWords_eq ws s
    obtain rfl : t' = t := Host.Outcome.next.inj (run'.symm.trans run)
    refine ⟨ws.map fun w => tagCode (classify w), record, List.length_map _, fun seven => ?_⟩
    obtain ⟨w, -, code⟩ := List.mem_map.mp seven
    exact tagCode_ne_seven (classify w) code
  case others =>
    intro c not_seven
    obtain ⟨t, rfl⟩ := exists_tagCode_eq not_seven
    obtain ⟨w, rfl⟩ := exists_classify_eq t
    exact ⟨w, fun s => ⟨(s.drive w).read, call_eq w s, by simp, by simp⟩⟩

/-- Settles O30: a call reads the code of its word's tag, and a NaN word's tag is NotANumber whatever its payload. -/
theorem nanWordsAreIndistinguishable : Obligations.NanWordsAreIndistinguishable := by
  unfold Obligations.NanWordsAreIndistinguishable
  refine ⟨?calls, fun sg e m m' same => classify_pack_congr sg e same⟩
  intro w w' s ones payload ones' payload'
  have nan : classify w = .notANumber := classify_of_nan ones payload
  have nan' : classify w' = .notANumber := classify_of_nan ones' payload'
  refine ⟨(s.drive w).read, (s.drive w').read, call_eq w s, call_eq w' s, ?_, ?_, ?_⟩
  · rw [State.read_tagO, State.drive_tagO, nan]
  · rw [State.read_tagO, State.drive_tagO, nan']
  · rw [State.read_tagsRead, State.read_tagsRead, State.drive_tagsRead, State.drive_tagsRead, State.drive_tagO,
      State.drive_tagO, nan, nan']

/-! ### The written line -/

theorem hexValue_hexChar (d : BitVec 4) : hexValue (hexChar d) = some d := by
  revert d
  decide

/-- The lowest `n` digits of a word, the most significant first. -/
def lowHexDigits (w : Word) : Nat → List Char
  | 0 => []
  | n + 1 => hexChar (w.extractLsb' (4 * n) 4) :: lowHexDigits w n

theorem hexDigits_eq_lowHexDigits (w : Word) : hexDigits w = lowHexDigits w 8 := rfl

/-- The bits from `k` up are the bits from `k + 4` up followed by the digit at `k`. -/
theorem shiftLeft_or_digit (w : Word) (k : Nat) :
    ((w >>> (k + 4)) <<< 4) ||| (w.extractLsb' k 4).zeroExtend 32 = w >>> k := by
  ext i hi
  by_cases low : i < 4
  · simp [low]
  · have above : k + 4 + (i - 4) = k + i := by omega
    simp [low, above]

/-- A reader that holds the digits above the lowest `n` has the whole word once it has read those. -/
theorem readHex_lowHexDigits (w : Word) (n : Nat) : readHex (lowHexDigits w n) (w >>> (4 * n)) = some w := by
  induction n with
  | zero => simp [lowHexDigits, readHex]
  | succ n ih =>
    simp only [lowHexDigits, readHex, hexValue_hexChar]
    rw [Nat.mul_succ, shiftLeft_or_digit, ih]

theorem readHex_hexDigits (w : Word) : readHex (hexDigits w) 0#32 = some w := by
  have nothing_read : w >>> (4 * 8) = 0#32 := BitVec.ushiftRight_eq_zero (by decide)
  rw [hexDigits_eq_lowHexDigits, ← nothing_read, readHex_lowHexDigits]

/-- A line is read by its first eight digits, whatever follows them (log entry 18). -/
theorem readWord_writeWord_append (w : Word) {rest : List Char} (ends : endsWord rest = true) :
    readWord (writeWord w ++ rest) = some w := by
  have head_eq : (writeWord w ++ rest).take 11 = ['C', 'L', 'A', 'S', 'S', 'I', 'F', 'Y', ' ', '0', 'x'] := rfl
  have digits_eq : (writeWord w ++ rest).drop 11 = hexDigits w ++ rest := rfl
  have rest_eq : (writeWord w ++ rest).drop 19 = rest := rfl
  have eight : (hexDigits w).length = 8 := rfl
  have enough : 8 ≤ (hexDigits w ++ rest).length := by rw [List.length_append, eight]; omega
  rw [readWord, digits_eq, rest_eq, if_pos ⟨head_eq, enough, ends⟩, ← eight, List.take_left, readHex_hexDigits]

/-- Settles O50: the digits are read back one by one onto the word, so they determine it. -/
theorem writtenLineReadsBackAsItsWord : Obligations.WrittenLineReadsBackAsItsWord := by
  unfold Obligations.WrittenLineReadsBackAsItsWord
  refine ⟨fun w => ?line, fun w w' same => ?word⟩
  case line =>
    rw [writeCall, List.append_assoc, List.append_assoc]
    exact readWord_writeWord_append w rfl
  case word =>
    have read_back (v : Word) : readWord (writeWord v) = some v := by
      simpa using readWord_writeWord_append v (rest := []) rfl
    exact Option.some_inj.mp (by rw [← read_back w, same, read_back])

end Sys2Proof.Proofs
end

section
/-! SUPPORT. The bit-field extractor (40_field_extractor.md): the reinterpretation changes no bit (R70), each field is the
value of its shift and mask and the slice of its own bits (R71 to R73), and the three fields partition the word (R74). -/

namespace Sys2Proof.Proofs

open Sys2Proof.Machine

/-- R70: the name `bits` for the word on the port changes no bit. -/
@[simp] theorem reinterpret_eq (w : Word) : reinterpret w = w := rfl

/-! ### Each field as the value of its shift and mask -/

/-- What makes the field the whole result and not a cut of it: the shift and the mask leave no bit at `n` or above. -/
theorem toNat_lowBits_of_lt {n : Nat} {v : Word} (small : v.toNat < 2 ^ n) : (v.extractLsb' 0 n).toNat = v.toNat := by
  rw [BitVec.extractLsb'_toNat, Nat.shiftRight_zero, Nat.mod_eq_of_lt small]

/-- R71: no mask is needed after the shift by 31. -/
theorem toNat_shift31_lt (w : Word) : (w >>> 31).toNat < 2 ^ 1 := by
  rw [BitVec.toNat_ushiftRight, Nat.shiftRight_eq_div_pow]
  omega

/-- A mask of `n` bits leaves a value below `2 ^ n`. -/
theorem toNat_and_lt {n : Nat} (v : Word) {mask : Word} (fits : mask.toNat < 2 ^ n) : (v &&& mask).toNat < 2 ^ n := by
  rw [BitVec.toNat_and]
  exact Nat.and_lt_two_pow v.toNat fits

theorem toNat_sign (w : Word) : (sign w).toNat = (w >>> 31).toNat := toNat_lowBits_of_lt (toNat_shift31_lt w)

theorem toNat_exponent (w : Word) : (exponent w).toNat = ((w >>> 23) &&& 0xFF#32).toNat :=
  toNat_lowBits_of_lt (toNat_and_lt _ (by decide))

theorem toNat_mantissa (w : Word) : (mantissa w).toNat = (w &&& 0x7FFFFF#32).toNat :=
  toNat_lowBits_of_lt (toNat_and_lt _ (by decide))

/-! ### Each field as the slice of its own bits -/

theorem sign_eq_one_iff (w : Word) : sign w = 1#1 ↔ w.getLsbD 31 = true := by
  rw [sign_eq_slice, BitVec.getLsbD_eq_extractLsb', beq_iff_eq]

theorem exponent_getLsbD (w : Word) {i : Nat} (hi : i < 8) : (exponent w).getLsbD i = w.getLsbD (23 + i) := by
  rw [exponent_eq_slice, BitVec.getLsbD_extractLsb', decide_eq_true hi, Bool.true_and]

theorem mantissa_getLsbD (w : Word) {i : Nat} (hi : i < 23) : (mantissa w).getLsbD i = w.getLsbD i := by
  rw [mantissa_eq_slice, BitVec.getLsbD_extractLsb', decide_eq_true hi, Bool.true_and, Nat.zero_add]

/-- R72: inverting bit 31 flips the sign field alone, and the exponent is another field. -/
theorem exponent_invert_bit31 (w : Word) : exponent (w ^^^ 0x80000000#32) = exponent w := by
  have bit31 : 0x80000000#32 = pack 1#1 0#8 0#23 := by decide
  rw [← pack_fields w, bit31, pack_xor, exponent_pack, exponent_pack, BitVec.xor_zero]

/-! ### The word rebuilt from its fields -/

/-- R74's first equation: each field shifted to its place meets only zeros of the other two. -/
theorem pack_eq_or_shifted (s : BitVec 1) (e : BitVec 8) (m : BitVec 23) :
    pack s e m = (s.setWidth 32 <<< 31) ||| (e.setWidth 32 <<< 23) ||| m.setWidth 32 := by
  apply BitVec.eq_of_getLsbD_eq
  intro i hi
  simp only [pack_getLsbD, BitVec.getLsbD_or, BitVec.getLsbD_shiftLeft, BitVec.getLsbD_setWidth, hi]
  split
  case isTrue inMantissa =>
    have below : i < 31 := by omega
    simp [inMantissa, below]
  case isFalse above =>
    have noMantissa : m.getLsbD i = false := BitVec.getLsbD_of_ge m i (by omega)
    split
    case isTrue inExponent =>
      have fits : i - 23 < 32 := by omega
      simp [noMantissa, above, inExponent, fits]
    case isFalse inSign =>
      have noExponent : e.getLsbD (i - 23) = false := BitVec.getLsbD_of_ge e _ (by omega)
      have fits : i - 31 < 32 := by omega
      simp [noMantissa, noExponent, inSign, fits]

/-- The three fields of a word, the inverse of `packFields`. -/
def extractFields (w : Word) : BitVec 1 × BitVec 8 × BitVec 23 := (sign w, exponent w, mantissa w)

theorem packFields_extractFields : Function.LeftInverse packFields extractFields := pack_fields

theorem extractFields_packFields : Function.RightInverse packFields extractFields := by
  rintro ⟨s, e, m⟩
  exact Laws.fields_pack s e m

/-! ### The obligations -/

/-- Settles O3: the shift by 31 leaves a value below 2, which is the sign's value, and selects bit 31. -/
theorem signIsTheLogicalShift : Obligations.SignIsTheLogicalShift := by
  unfold Obligations.SignIsTheLogicalShift
  refine ⟨fun w => ⟨?zeroOrOne, toNat_sign w, sign_eq_one_iff w⟩, by decide, by decide⟩
  have small := toNat_shift31_lt w
  bv_omega

/-- Settles O4: the mask keeps the value below `2 ^ 8`, the slice is bits 30..23, and bit 31 belongs to the sign. -/
theorem exponentIsTheMaskedShift : Obligations.ExponentIsTheMaskedShift := by
  unfold Obligations.ExponentIsTheMaskedShift
  exact ⟨fun w => ⟨toNat_exponent w, fun i => exponent_getLsbD w, exponent_invert_bit31 w⟩, by decide, by decide, by decide⟩

/-- Settles O5: the mask keeps the value below `2 ^ 23`, the slice is bits 22..0, and packing hands the mantissa back
whatever the other two fields are. -/
theorem mantissaIsTheLowBits : Obligations.MantissaIsTheLowBits := by
  unfold Obligations.MantissaIsTheLowBits
  refine ⟨fun w => ⟨toNat_mantissa w, fun i => mantissa_getLsbD w⟩, fun s s' e e' m => ?_, by decide, by decide, by decide⟩
  rw [mantissa_pack, mantissa_pack]

/-- Settles O6: a word is the packing of its fields, and packing is the inverse of taking the fields. -/
theorem fieldsPartitionTheWord : Obligations.FieldsPartitionTheWord := by
  unfold Obligations.FieldsPartitionTheWord
  refine ⟨fun w => ⟨?_, (pack_fields w).symm⟩, packFields_extractFields.injective, extractFields_packFields.surjective⟩
  rw [← pack_eq_or_shifted, pack_fields]

/-- Settles O1: the port's word and its reinterpretation are `value_i` itself. -/
theorem reinterpretKeepsEveryBit : Obligations.ReinterpretKeepsEveryBit := by
  unfold Obligations.ReinterpretKeepsEveryBit
  exact ⟨State.inputWord_eq, fun w i _ => by rw [reinterpret_eq], reinterpret_eq _, by decide⟩

end Sys2Proof.Proofs
end

section
/-! SUPPORT. The field decoder (41_field_decoder.md): each test is the cell of the decision table (R80 to R83), so the exponent
tests split the 256 exponents into {0}, {1..254} and {255} (R85). -/

namespace Sys2Proof.Proofs

open Sys2Proof.Machine

/-! ### Each test as a condition on its field -/

theorem expZero_iff (e : BitVec 8) : expZero e = true ↔ e = 0#8 := beq_iff_eq

theorem expOnes_iff (e : BitVec 8) : expOnes e = true ↔ e = 255#8 := beq_iff_eq

theorem manZero_iff (m : BitVec 23) : manZero m = true ↔ m = 0#23 := beq_iff_eq

/-- R82's two forms of the middle exponents. -/
theorem expMid_eq_not_zero_and_not_ones (e : BitVec 8) : expMid e = (!expZero e && !expOnes e) := by
  rw [Bool.eq_iff_iff, expMid_iff, Ne, Ne, ← expZero_iff, ← expOnes_iff]
  simp

theorem expZero_and_expOnes (e : BitVec 8) : (expZero e && expOnes e) = false := by
  rw [Bool.and_eq_false_imp, expZero_iff]
  rintro rfl
  decide

/-- R83: no bit of the field is free in the test. -/
theorem manZero_eq_false_of_getLsbD {m : BitVec 23} {i : Nat} (isSet : m.getLsbD i = true) : manZero m = false := by
  rw [Bool.eq_false_iff, Ne, manZero_iff]
  rintro rfl
  rw [BitVec.getLsbD_zero] at isSet
  contradiction

/-! ### The exponent classes -/

/-- Middle is neither of the other two, and those two exclude each other: one test of the three is 1 (R85). -/
theorem exponent_class_cases (e : BitVec 8) :
    (expZero e = true ∧ expMid e = false ∧ expOnes e = false) ∨ (expZero e = false ∧ expMid e = true ∧ expOnes e = false) ∨
      (expZero e = false ∧ expMid e = false ∧ expOnes e = true) := by
  have exclusive := expZero_and_expOnes e
  rw [expMid_eq_not_zero_and_not_ones]
  revert exclusive
  cases expZero e <;> cases expOnes e <;> decide

theorem card_exponents_of_iff_mem {P : BitVec 8 → Prop} {E : Set (BitVec 8)} (h : ∀ e, P e ↔ e ∈ E) :
    Nat.card { e : BitVec 8 // P e } = E.ncard :=
  congrArg Set.ncard (Set.ext h)

theorem card_expZero : Nat.card { e : BitVec 8 // expZero e = true } = 1 := by
  rw [card_exponents_of_iff_mem (E := {0#8}) expZero_iff, Set.ncard_singleton]

theorem card_expOnes : Nat.card { e : BitVec 8 // expOnes e = true } = 1 := by
  rw [card_exponents_of_iff_mem (E := {255#8}) expOnes_iff, Set.ncard_singleton]

/-- All 256 exponents but the two that the other tests hold for. -/
theorem card_expMid : Nat.card { e : BitVec 8 // expMid e = true } = 254 := by
  rw [card_exponents_of_iff_mem (E := {0#8, 255#8}ᶜ) fun e => (expMid_iff e).trans (by simp), Set.ncard_compl,
    Set.ncard_pair (by decide), natCard_bitVec]
  norm_num

/-! ### The obligations -/

/-- Settles O9: the three tests split the exponents, and each class is counted as a set of exponents. -/
theorem exactlyOneExponentClass : Obligations.ExactlyOneExponentClass := by
  unfold Obligations.ExactlyOneExponentClass
  exact ⟨fun w => exponent_class_cases (exponent w), card_expZero, card_expMid, card_expOnes⟩

/-- Settles O8: each test is an equation or a range of the whole field, and those are what the field's value says. -/
theorem decoderTestsAreTheCellValues : Obligations.DecoderTestsAreTheCellValues := by
  unfold Obligations.DecoderTestsAreTheCellValues
  refine ⟨fun e => ⟨?zero, ?ones, ?mid, expMid_eq_not_zero_and_not_ones e, expZero_and_expOnes e⟩,
    fun m => ⟨?mantissa, fun i => manZero_eq_false_of_getLsbD⟩, by decide, by decide, by decide, by decide, by decide,
    by decide⟩
  case zero => rw [expZero_iff, BitVec.toNat_eq, BitVec.toNat_ofNat, Nat.zero_mod]
  case ones => rw [expOnes_iff, BitVec.toNat_eq, BitVec.toNat_ofNat]
  case mid => rw [expMid_iff, exponent_mid_iff]
  case mantissa => rw [manZero_iff, BitVec.toNat_eq, BitVec.toNat_ofNat, Nat.zero_mod]

end Sys2Proof.Proofs
end

section
/-! SUPPORT. The classifier (42_classifier.md): what a step, a row and a run of words read (R90, R101, R104, R105), which words
each row has (R91 to R97), and the other forms of the decision table: the tree and the bit equations (R98), the rows in any
order (R99, R100), the sign (R102) and the magnitude (R103). -/

namespace Sys2Proof.Proofs

open Sys2Proof.Machine

/-! ### What a call reads, with the next state written out -/

theorem step_eq (s : State) : step s = .next { s with tagsRead := s.tagsRead ++ [tagCode (classify s.valueI)] } :=
  step_eq_read s

theorem exec_eq (i : Instr) (s : State) :
    exec i s = .next { valueI := encode i, tagsRead := s.tagsRead ++ [tagCode (classify (encode i))] } :=
  exec_eq_drive_read i s

/-- A well-formed row reads the code of the tag column of R57. -/
theorem exec_eq_of_wf {i : Instr} (wf : i.wf = true) (s : State) :
    exec i s = .next { valueI := encode i, tagsRead := s.tagsRead ++ [tagCode (tagOfRow i)] } := by
  rw [exec_eq, classify_encode wf]

/-- A run of words leaves the last of them on the input, and the code of each of them in the record. -/
theorem runWords_eq (ws : List Word) (s : State) :
    runWords ws s = .next { valueI := ws.getLast?.getD s.valueI,
                            tagsRead := s.tagsRead ++ ws.map fun w => tagCode (classify w) } := by
  induction ws generalizing s with
  | nil => simp [runWords_nil]
  | cons w ws ih =>
    rw [runWords_cons s (call_eq w s), ih]
    simp [List.getLast?_cons]

/-- Settles O44: the run's last state is written out by the words and the record it starts with, by induction on the
words. -/
theorem codesReadDependOnTheWordsAlone : Obligations.CodesReadDependOnTheWordsAlone := by
  unfold Obligations.CodesReadDependOnTheWordsAlone
  intro ws s
  refine ⟨_, runWords_eq ws s, rfl, ?none, ?last⟩
  case none =>
    rintro rfl
    simp
  case last =>
    intro w last
    simp [last, State.tagO]

/-- Settles O38: a row drives its own word and reads the code of that word's tag. -/
theorem everyRowDrivesTheTagOfItsWord : Obligations.EveryRowDrivesTheTagOfItsWord := by
  unfold Obligations.EveryRowDrivesTheTagOfItsWord
  exact exec_eq

/-- Settles O37: the row's tag is that of its word, and driving the word that is on the input already changes nothing. -/
theorem everyRowWritesOnlyTheOutput : Obligations.EveryRowWritesOnlyTheOutput := by
  unfold Obligations.EveryRowWritesOnlyTheOutput
  intro i wf
  refine ⟨tagOfRow i, fun s holds => ⟨?next, ?shown⟩⟩
  case next => rw [exec_eq_of_wf wf, holds]
  case shown => rw [State.tagO, holds, classify_encode wf]

/-- Settles O29: a call shows and reads the code of its word's tag, and no two tags have one code. -/
theorem outputCarriesTheTagAndNothingElse : Obligations.OutputCarriesTheTagAndNothingElse := by
  unfold Obligations.OutputCarriesTheTagAndNothingElse
  intro w w' s s' t t' hcall hcall'
  rw [call_eq] at hcall hcall'
  cases hcall
  cases hcall'
  rw [justRead_read, justRead_read, Option.some_inj, and_self, State.read_tagO, State.read_tagO, State.drive_tagO,
    State.drive_tagO]
  exact tagCode_injective.eq_iff

/-! ### The words of each row -/

/-- The row of a tag, its open fields those of the word. -/
def rowOfTag : Tag → Word → Instr
  | .positiveZero, _ => .pz
  | .negativeZero, _ => .nz
  | .denormalizedNumber, w => .den (sign w) (mantissa w)
  | .positiveInfinity, _ => .pinf
  | .negativeInfinity, _ => .ninf
  | .notANumber, w => .nan (sign w) (mantissa w)
  | .normalizedNumber, w => .norm (sign w) (exponent w) (mantissa w)

theorem tagOfRow_rowOfTag (t : Tag) (w : Word) : tagOfRow (rowOfTag t w) = t := by
  cases t <;> rfl

/-- A row's word and its tag say the whole row. -/
theorem rowOfTag_encode (i : Instr) : rowOfTag (tagOfRow i) (encode i) = i := by
  cases i <;> simp [tagOfRow, encode, rowOfTag, sign_pack, exponent_pack, mantissa_pack]

/-- The words that meet a tag's exact condition are those that decode to its row, with their own fields (R58). -/
theorem rowHolds_iff_decode (t : Tag) (w : Word) : rowHolds t w = true ↔ decode w = rowOfTag t w := by
  rw [rowHolds_iff_classify, classify_eq_tagOfRow_decode]
  constructor
  · rintro rfl
    simpa only [encode_decode] using (rowOfTag_encode (decode w)).symm
  · intro row
    rw [row, tagOfRow_rowOfTag]

/-- A well-formed row is what its word decodes to, and no other word does. -/
theorem decode_eq_iff {i : Instr} (wf : i.wf = true) (w : Word) : decode w = i ↔ w = encode i := by
  constructor
  · rintro rfl
    exact (encode_decode w).symm
  · rintro rfl
    exact decode_encode wf

/-- A row's test written on its two columns (R57). -/
theorem and_mask_eq_iff_hits (r : ClassRow) (w : Word) : w &&& r.mask = r.pattern ↔ r.hits w = true := beq_iff_eq.symm

/-- In a state whose input meets a tag's exact condition, the tag is shown and a step reads it. -/
theorem shows_and_reads_of_rowHolds {t : Tag} {s : State} (holds : rowHolds t s.valueI = true) :
    classify s.valueI = t ∧ s.tagO = tagCode t ∧ step s = .next { s with tagsRead := s.tagsRead ++ [tagCode t] } := by
  have tag : classify s.valueI = t := (rowHolds_iff_classify t s.valueI).mp holds
  exact ⟨tag, congrArg tagCode tag, tag ▸ step_eq s⟩

/-! ### The rows of one word (R91, R92, R94, R95) -/

/-- What the four rows share: the mask keeps every bit, and the row has no operand. -/
theorem row_of_one_word {i : Instr} {r : ClassRow} (row : ∀ w, rowOfTag r.tag w = i) (wf : i.wf = true)
    (word : encode i = r.pattern) (mask : r.mask = 0xFFFFFFFF#32) :
    (∀ w, rowHolds r.tag w = true ↔ w = r.pattern) ∧
    (∀ w, (w &&& r.mask = r.pattern ↔ w = r.pattern) ∧ (decode w = i ↔ w = r.pattern)) ∧
    (∀ s : State, s.valueI = r.pattern → classify s.valueI = r.tag ∧ s.tagO = tagCode r.tag ∧
      step s = .next { s with tagsRead := s.tagsRead ++ [tagCode r.tag] }) ∧
    (∀ s : State, exec i s = .next { valueI := r.pattern, tagsRead := s.tagsRead ++ [tagCode r.tag] }) := by
  have decoded (w : Word) : decode w = i ↔ w = r.pattern := by rw [decode_eq_iff wf, word]
  have condition (w : Word) : rowHolds r.tag w = true ↔ w = r.pattern := by rw [rowHolds_iff_decode, row, decoded]
  refine ⟨condition, fun w => ⟨?columns, decoded w⟩, fun s input => ?reads, fun s => ?runs⟩
  case columns => rw [and_mask_eq_iff_hits, hits_exactly mask]
  case reads => exact shows_and_reads_of_rowHolds ((condition s.valueI).mpr input)
  case runs => rw [exec_eq_of_wf wf, word, ← row 0#32, tagOfRow_rowOfTag]

/-- Settles O10: the row's match is 0x00000000 and its mask keeps every bit. -/
theorem positiveZeroRow : Obligations.PositiveZeroRow := by
  unfold Obligations.PositiveZeroRow
  obtain ⟨condition, columns, reads, runs⟩ := row_of_one_word (i := .pz) (r := rowPz) (fun _ => rfl) rfl (by decide) rfl
  exact ⟨condition, columns, reads, runs, by decide, by decide, by decide⟩

/-- Settles O11: the row's match is 0x80000000 and its mask keeps every bit. -/
theorem negativeZeroRow : Obligations.NegativeZeroRow := by
  unfold Obligations.NegativeZeroRow
  exact row_of_one_word (i := .nz) (r := rowNz) (fun _ => rfl) rfl (by decide) rfl

/-- Settles O13: the row's match is 0x7F800000 and its mask keeps every bit. -/
theorem positiveInfinityRow : Obligations.PositiveInfinityRow := by
  unfold Obligations.PositiveInfinityRow
  obtain ⟨condition, columns, reads, runs⟩ := row_of_one_word (i := .pinf) (r := rowPinf) (fun _ => rfl) rfl (by decide) rfl
  exact ⟨condition, columns, reads, runs, by decide, by decide⟩

/-- Settles O14: the row's match is 0xFF800000 and its mask keeps every bit. -/
theorem negativeInfinityRow : Obligations.NegativeInfinityRow := by
  unfold Obligations.NegativeInfinityRow
  obtain ⟨condition, columns, reads, runs⟩ := row_of_one_word (i := .ninf) (r := rowNinf) (fun _ => rfl) rfl (by decide) rfl
  exact ⟨condition, columns, reads, runs, by decide, by decide⟩

/-! ### The rows with open fields (R93, R96, R97) -/

/-- A tag's exact condition, said of packed words, is its condition on the fields of every word. -/
theorem rowHolds_iff_fields {t : Tag} {P : BitVec 1 → BitVec 8 → BitVec 23 → Prop}
    (h : ∀ s e m, rowHolds t (pack s e m) = true ↔ P s e m) (w : Word) :
    rowHolds t w = true ↔ P (sign w) (exponent w) (mantissa w) := by
  rw [← h, pack_fields]

theorem card_rowHolds (t : Tag) : Nat.card { w : Word // rowHolds t w = true } = Nat.card { w : Word // classify w = t } := by
  simp only [rowHolds_iff_classify]

theorem rowDen_hits_iff (w : Word) : rowDen.hits w = true ↔ exponent w = 0#8 := by
  rw [← pack_fields w, rowDen_hits, exponent_pack]

theorem rowNan_hits_iff (w : Word) : rowNan.hits w = true ↔ exponent w = 255#8 := by
  rw [← pack_fields w, rowNan_hits, exponent_pack]

/-- The words with one exponent and a mantissa not 0 are a range for each sign. -/
theorem exponent_and_mantissa_ne_zero_iff (e₀ : BitVec 8) (w : Word) : exponent w = e₀ ∧ mantissa w ≠ 0#23 ↔
    (e₀.toNat * 2 ^ 23 + 1 ≤ w.toNat ∧ w.toNat ≤ e₀.toNat * 2 ^ 23 + 0x7FFFFF) ∨
    (2 ^ 31 + e₀.toNat * 2 ^ 23 + 1 ≤ w.toNat ∧ w.toNat ≤ 2 ^ 31 + e₀.toNat * 2 ^ 23 + 0x7FFFFF) := by
  have value := toNat_eq_fields w
  have := (mantissa w).isLt
  rw [Ne, BitVec.toNat_eq, BitVec.toNat_eq, BitVec.toNat_ofNat, Nat.zero_mod]
  omega

theorem expMid_iff_toNat_ranges (w : Word) : expMid (exponent w) = true ↔
    (0x00800000 ≤ w.toNat ∧ w.toNat ≤ 0x7F7FFFFF) ∨ (0x80800000 ≤ w.toNat ∧ w.toNat ≤ 0xFF7FFFFF) := by
  have value := toNat_eq_fields w
  have := (mantissa w).isLt
  rw [expMid_iff, ← exponent_mid_iff]
  omega

/-- Settles O12: the exact condition fixes the exponent at 0 and asks for a mantissa not 0. -/
theorem denormalizedNumberRow : Obligations.DenormalizedNumberRow := by
  unfold Obligations.DenormalizedNumberRow
  refine ⟨fun w => ?ranges, ?count, fun w => ⟨?columns, rowHolds_iff_decode .denormalizedNumber w⟩,
    fun s => shows_and_reads_of_rowHolds (t := .denormalizedNumber),
    fun sg m s payload => exec_eq_of_wf ((wf_den_iff sg m).mpr payload) s, by decide, by decide⟩
  case ranges =>
    exact (rowHolds_iff_fields (rowHolds_pack .denormalizedNumber) w).trans (exponent_and_mantissa_ne_zero_iff 0#8 w)
  case count =>
    exact (card_rowHolds .denormalizedNumber).trans (card_words_of_mantissa_ne_zero (rowHolds_pack .denormalizedNumber))
  case columns => exact (and_mask_eq_iff_hits rowDen w).trans (rowDen_hits_iff w)

/-- Settles O15: the exact condition fixes the exponent at 255 and asks for a mantissa not 0. -/
theorem notANumberRow : Obligations.NotANumberRow := by
  unfold Obligations.NotANumberRow
  refine ⟨fun w => ?ranges, ?count, fun w => ⟨?columns, rowHolds_iff_decode .notANumber w⟩,
    fun s => shows_and_reads_of_rowHolds (t := .notANumber),
    fun sg m s payload => exec_eq_of_wf ((wf_nan_iff sg m).mpr payload) s, by decide, by decide⟩
  case ranges =>
    exact (rowHolds_iff_fields (rowHolds_pack .notANumber) w).trans (exponent_and_mantissa_ne_zero_iff 255#8 w)
  case count => exact (card_rowHolds .notANumber).trans (card_words_of_mantissa_ne_zero (rowHolds_pack .notANumber))
  case columns => exact (and_mask_eq_iff_hits rowNan w).trans (rowNan_hits_iff w)

/-- Settles O16: the exact condition asks for an exponent of 1 to 254 and leaves the other fields open. -/
theorem normalizedNumberRow : Obligations.NormalizedNumberRow := by
  unfold Obligations.NormalizedNumberRow
  refine ⟨expMid_iff_toNat_ranges, (card_rowHolds .normalizedNumber).trans card_normalizedNumber,
    fun w => ⟨?columns, rowHolds_iff_decode .normalizedNumber w⟩,
    fun s => shows_and_reads_of_rowHolds (t := .normalizedNumber), fun sg e m s low high => ?runs, by decide⟩
  case columns => exact (and_mask_eq_iff_hits rowNorm w).mpr (rowNorm_hits w)
  case runs => exact exec_eq_of_wf ((wf_norm_iff sg e m).mpr ((exponent_mid_iff e).mp ⟨low, high⟩)) s

/-! ### The decision table and its other forms -/

/-- The decision table on the fields of a word, by the exact conditions of its rows. -/
theorem classify_of_fields {t : Tag} {P : BitVec 1 → BitVec 8 → BitVec 23 → Prop}
    (h : ∀ s e m, rowHolds t (pack s e m) = true ↔ P s e m) {w : Word} (fields : P (sign w) (exponent w) (mantissa w)) :
    classify w = t :=
  (rowHolds_iff_classify t w).mp ((rowHolds_iff_fields h w).mpr fields)

/-- Settles O17: each row of the table is an exact condition, and a step is a read of the output. -/
theorem stepComputesTheDecisionTable : Obligations.StepComputesTheDecisionTable := by
  unfold Obligations.StepComputesTheDecisionTable
  refine ⟨fun w => ⟨?pz, ?nz, ?den, ?pinf, ?ninf, ?nan, ?norm⟩, fun s => ⟨rfl, step_eq s⟩, by decide, by decide,
    by decide, by decide⟩
  case pz => exact fun e m s => classify_of_fields (rowHolds_pack .positiveZero) ⟨s, e, m⟩
  case nz => exact fun e m s => classify_of_fields (rowHolds_pack .negativeZero) ⟨s, e, m⟩
  case den => exact fun e m => classify_of_fields (rowHolds_pack .denormalizedNumber) ⟨e, m⟩
  case pinf => exact fun e m s => classify_of_fields (rowHolds_pack .positiveInfinity) ⟨s, e, m⟩
  case ninf => exact fun e m s => classify_of_fields (rowHolds_pack .negativeInfinity) ⟨s, e, m⟩
  case nan => exact fun e m => classify_of_fields (rowHolds_pack .notANumber) ⟨e, m⟩
  case norm =>
    exact fun low high => classify_of_fields (rowHolds_pack .normalizedNumber) ((exponent_mid_iff _).mp ⟨low, high⟩)

/-! #### The tree and the bit equations (R98) -/

theorem zeroTag_eq (s : BitVec 1) : zeroTag s = if s = 0#1 then .positiveZero else .negativeZero := by
  simp only [zeroTag, beq_iff_eq]

theorem infTag_eq (s : BitVec 1) : infTag s = if s = 0#1 then .positiveInfinity else .negativeInfinity := by
  simp only [infTag, beq_iff_eq]

theorem tagOfFields_fields (w : Word) : tagOfFields (sign w) (exponent w) (mantissa w) = classify w := by
  rw [tagOfFields_eq_classify_pack, pack_fields]

/-- The tree's three code bits on its four inputs, of which the two exponent tests are never both 1. -/
theorem tagCode_muxTree : ∀ (s : BitVec 1) (expIsZero expIsOnes manIsZero : Bool), (expIsZero && expIsOnes) = false →
    tagCode (muxTree s expIsZero expIsOnes manIsZero) =
      BitVec.ofBool expIsOnes ++
      BitVec.ofBool ((!expIsZero && !expIsOnes) || (expIsOnes && !manIsZero) || (expIsZero && !manIsZero)) ++
      BitVec.ofBool ((expIsZero && (!manIsZero || s == 1#1)) || (expIsOnes && manIsZero && s == 1#1)) := by
  decide

theorem tagCode_classify (w : Word) :
    tagCode (classify w) = BitVec.ofBool (tagBit2 w) ++ BitVec.ofBool (tagBit1 w) ++ BitVec.ofBool (tagBit0 w) := by
  rw [← tagOfFields_fields, tagOfFields, tagCode_muxTree _ _ _ _ (expZero_and_expOnes _), tagBit2, tagBit1,
    expMid_eq_not_zero_and_not_ones, tagBit0]

/-- The bits of a code given as three bits, the most significant first. -/
theorem getLsbD_ofBool_append : ∀ b2 b1 b0 : Bool,
    (BitVec.ofBool b2 ++ BitVec.ofBool b1 ++ BitVec.ofBool b0).getLsbD 2 = b2 ∧
    (BitVec.ofBool b2 ++ BitVec.ofBool b1 ++ BitVec.ofBool b0).getLsbD 1 = b1 ∧
    (BitVec.ofBool b2 ++ BitVec.ofBool b1 ++ BitVec.ofBool b0).getLsbD 0 = b0 := by
  decide

/-- Settles O20: the tree's code bits, on the tests of the word's fields. -/
theorem tagBitFunctionsAgree : Obligations.TagBitFunctionsAgree := by
  unfold Obligations.TagBitFunctionsAgree
  exact tagCode_classify

/-- Settles O19: the tree written out is the model's, and the output is the code whose bits are the three equations. -/
theorem muxTreeAndBitEquations : Obligations.MuxTreeAndBitEquations := by
  unfold Obligations.MuxTreeAndBitEquations
  refine ⟨fun w => ?tree, tagOfFields_fields, fun s => ?bits⟩
  case tree =>
    rw [← tagOfFields_fields]
    simp only [tagOfFields, muxTree, loTag, hiTag, zeroTag_eq, infTag_eq]
  case bits =>
    rw [State.tagO, tagCode_classify]
    exact getLsbD_ofBool_append _ _ _

/-! #### One tag, in any order of the rows (R99, R100) -/

/-- Settles O21: a word meets the exact condition of its own tag alone, no two tags have one code, and every tag has a
word. -/
theorem everyWordHasOneTagAndEveryTagAWord : Obligations.EveryWordHasOneTagAndEveryTagAWord := by
  unfold Obligations.EveryWordHasOneTagAndEveryTagAWord
  refine ⟨fun w => ?row, fun s => ?tag, fun t => ?word⟩
  case row => simp only [rowHolds_iff_classify, existsUnique_eq']
  case tag =>
    refine ⟨classify s.valueI, ⟨rfl, step_eq s⟩, ?_⟩
    rintro t ⟨shown, -⟩
    exact tagCode_injective shown.symm
  case word =>
    obtain ⟨w, rfl⟩ := exists_classify_eq t
    exact ⟨w, rfl, fun s => ⟨(s.drive w).read, call_eq w s, rfl, rfl⟩⟩

/-- Settles O22: whichever row is found, its exact condition names the word's tag, and some row is found. -/
theorem rowOrderDoesNotMatter : Obligations.RowOrderDoesNotMatter := by
  unfold Obligations.RowOrderDoesNotMatter
  refine ⟨fun w t u ht hu => ?disjoint, fun w rows order => ?anyOrder⟩
  case disjoint =>
    rw [rowHolds_iff_classify] at ht hu
    exact ht.symm.trans hu
  case anyOrder =>
    cases found : rows.find? fun t => rowHolds t w with
    | none =>
      have missed := List.find?_eq_none.mp found (classify w) (order.mem_iff.mpr (mem_allTags _))
      exact absurd ((rowHolds_iff_classify _ w).mpr rfl) missed
    | some t =>
      have holds : rowHolds t w = true := List.find?_some (p := fun t => rowHolds t w) found
      rw [(rowHolds_iff_classify t w).mp holds]

/-! #### The sign (R102) -/

theorem bit31_eq_pack : 0x80000000#32 = pack 1#1 0#8 0#23 := by decide

/-- The words of the two zeros and the two infinities, by their fields. -/
theorem signed_word_iff (w : Word) :
    (w = 0x00000000#32 ∨ w = 0x80000000#32 ∨ w = 0x7F800000#32 ∨ w = 0xFF800000#32) ↔
      mantissa w = 0#23 ∧ (exponent w = 0#8 ∨ exponent w = 255#8) := by
  revert w
  rw [forall_word]
  intro s e m
  rw [show 0x00000000#32 = pack 0#1 0#8 0#23 by decide, bit31_eq_pack,
    show 0x7F800000#32 = pack 0#1 255#8 0#23 by decide, show 0xFF800000#32 = pack 1#1 255#8 0#23 by decide,
    pack_inj, pack_inj, pack_inj, pack_inj, mantissa_pack, exponent_pack]
  have := sign_cases s
  tauto

/-- The tree looks at the sign for a zero mantissa under exponent 0 or 255, and nowhere else. -/
theorem muxTree_invert_sign_iff : ∀ (s : BitVec 1) (expIsZero expIsOnes manIsZero : Bool),
    muxTree (s ^^^ 1#1) expIsZero expIsOnes manIsZero = muxTree s expIsZero expIsOnes manIsZero ↔
      ¬ (manIsZero = true ∧ (expIsZero = true ∨ expIsOnes = true)) := by
  decide

theorem classify_invert_bit31_iff (w : Word) : classify (w ^^^ 0x80000000#32) = classify w ↔
    ¬ (w = 0x00000000#32 ∨ w = 0x80000000#32 ∨ w = 0x7F800000#32 ∨ w = 0xFF800000#32) := by
  rw [signed_word_iff]
  revert w
  rw [forall_word]
  intro s e m
  rw [bit31_eq_pack, pack_xor, BitVec.xor_zero, BitVec.xor_zero,
    ← tagOfFields_eq_classify_pack, ← tagOfFields_eq_classify_pack, tagOfFields, tagOfFields, muxTree_invert_sign_iff,
    manZero_iff, expZero_iff, expOnes_iff, mantissa_pack, exponent_pack]

/-- Settles O23: inverting bit 31 flips the sign field alone, and the tree looks at it for the four words alone. -/
theorem signKeptForZerosAndInfinitiesOnly : Obligations.SignKeptForZerosAndInfinitiesOnly := by
  unfold Obligations.SignKeptForZerosAndInfinitiesOnly
  refine ⟨by decide, by decide, by decide, by decide, fun b pz nz pinf ninf => ?other, fun b signed kept => ?signed⟩
  case other =>
    rw [classify_invert_bit31_iff]
    rintro (h | h | h | h) <;> contradiction
  case signed => exact (classify_invert_bit31_iff b).mp kept signed

/-! #### The magnitude (R103) -/

theorem magnitude_eq (w : Word) : magnitude w = (exponent w).toNat * 2 ^ 23 + (mantissa w).toNat := by
  have mask : 0x7FFFFFFF#32 = pack 0#1 255#8 8388607#23 := by decide
  calc magnitude w = (pack (sign w) (exponent w) (mantissa w) &&& pack 0#1 255#8 8388607#23).toNat := by
        rw [magnitude, pack_fields, mask]
    _ = (pack 0#1 (exponent w) (mantissa w)).toNat := by rw [pack_and, BitVec.and_zero, and_ones8, and_ones23]
    _ = (exponent w).toNat * 2 ^ 23 + (mantissa w).toNat := by
        rw [pack_toNat, BitVec.toNat_ofNat, Nat.zero_mod, Nat.zero_mul, Nat.zero_add]

/-- The magnitude orders words by the exponent first, so each of its ranges is a condition on the two fields. -/
theorem classifyByMagnitude_eq_classify (w : Word) : classifyByMagnitude w = classify w := by
  have mag := magnitude_eq w
  rw [classifyByMagnitude, ← tagOfFields_fields]
  split_ifs with isZero isDen isNorm isInf
  · have e : exponent w = 0#8 := by bv_omega
    have m : mantissa w = 0#23 := by bv_omega
    rw [e, tagOfFields_zero, if_pos m]
  · have e : exponent w = 0#8 := by bv_omega
    have m : mantissa w ≠ 0#23 := by bv_omega
    rw [e, tagOfFields_zero, if_neg m]
  · have not_zero : exponent w ≠ 0#8 := by bv_omega
    have not_ones : exponent w ≠ 255#8 := by bv_omega
    rw [tagOfFields_mid _ _ not_zero not_ones]
  · have e : exponent w = 255#8 := by bv_omega
    have m : mantissa w = 0#23 := by bv_omega
    rw [e, tagOfFields_ones, if_pos m]
  · have e : exponent w = 255#8 := by bv_omega
    have m : mantissa w ≠ 0#23 := by bv_omega
    rw [e, tagOfFields_ones, if_neg m]

/-- Which of the five ranges a magnitude lies in, in ascending order. -/
def rangeIndex (n : Nat) : Nat :=
  if n = 0 then 0 else if n ≤ 0x007FFFFF then 1 else if n ≤ 0x7F7FFFFF then 2 else if n = 0x7F800000 then 3 else 4

/-- The tag of a range, which for the first and the fourth is the sign's. -/
def rangeTag (s : BitVec 1) : Nat → Tag
  | 0 => zeroTag s
  | 1 => .denormalizedNumber
  | 2 => .normalizedNumber
  | 3 => infTag s
  | _ => .notANumber

theorem classify_eq_rangeTag (w : Word) : classify w = rangeTag (sign w) (rangeIndex (magnitude w)) := by
  rw [← classifyByMagnitude_eq_classify, classifyByMagnitude, rangeIndex]
  split_ifs <;> rfl

theorem classify_of_rangeIndex {w : Word} {k : Nat} (range : rangeIndex (magnitude w) = k) :
    classify w = rangeTag (sign w) k := range ▸ classify_eq_rangeTag w

/-- The five ranges in the spec's own bounds. -/
theorem rangeIndex_cases (n : Nat) :
    (n = 0 ∧ rangeIndex n = 0) ∨ (0x00000001 ≤ n ∧ n ≤ 0x007FFFFF ∧ rangeIndex n = 1) ∨
    (0x00800000 ≤ n ∧ n ≤ 0x7F7FFFFF ∧ rangeIndex n = 2) ∨ (n = 0x7F800000 ∧ rangeIndex n = 3) ∨
    (0x7F800001 ≤ n ∧ rangeIndex n = 4) := by
  rw [rangeIndex]
  split_ifs <;> omega

theorem rangeIndex_lt (n : Nat) : rangeIndex n < 5 := by
  have := rangeIndex_cases n
  omega

/-- A sign's five ranges have five tags. -/
theorem eq_of_rangeTag_eq (s : BitVec 1) : ∀ j < 5, ∀ k < 5, rangeTag s j = rangeTag s k → j = k := by
  obtain rfl | rfl := sign_cases s <;> decide

/-- A range ends just below the next one's first magnitude. -/
theorem rangeIndex_ne_succ_iff (n : Nat) : rangeIndex n ≠ rangeIndex (n + 1) ↔
    n + 1 = 0x00000001 ∨ n + 1 = 0x00800000 ∨ n + 1 = 0x7F800000 ∨ n + 1 = 0x7F800001 := by
  have := rangeIndex_cases n
  have := rangeIndex_cases (n + 1)
  omega

/-- Settles O24: the five ranges of the magnitude are the rows' conditions on exponent and mantissa. -/
theorem magnitudeFormGivesTheTag : Obligations.MagnitudeFormGivesTheTag := by
  unfold Obligations.MagnitudeFormGivesTheTag
  intro b
  have ranges := rangeIndex_cases (magnitude b)
  rw [show (b &&& 0x7FFFFFFF#32).toNat = magnitude b from rfl]
  refine ⟨magnitude_eq b, rfl, fun zero => ?zero, fun low high => ?den, fun low high => ?norm, fun inf => ?inf,
    fun low high => ?nan, classifyByMagnitude_eq_classify b⟩
  case zero => rw [classify_of_rangeIndex (k := 0) (by omega), rangeTag, zeroTag_eq]
  case den => exact classify_of_rangeIndex (k := 1) (by omega)
  case norm => exact classify_of_rangeIndex (k := 2) (by omega)
  case inf => rw [classify_of_rangeIndex (k := 3) (by omega), rangeTag, infTag_eq]
  case nan => exact classify_of_rangeIndex (k := 4) (by omega)

theorem toNat_eq_sign_magnitude (w : Word) : w.toNat = (sign w).toNat * 2 ^ 31 + magnitude w := by
  rw [toNat_eq_fields, magnitude_eq, Nat.add_assoc]

theorem magnitude_lt (w : Word) : magnitude w < 2 ^ 31 := by
  have := (mantissa w).isLt
  rw [magnitude_eq]
  omega

/-- A number below `2 ^ 32` as a word: its top bit is the sign, the rest the magnitude. -/
theorem sign_and_magnitude_of_toNat {sg n : Nat} {w : Word} (hn : n < 2 ^ 31) (value : w.toNat = sg * 2 ^ 31 + n) :
    sign w = BitVec.ofNat 1 sg ∧ magnitude w = n := by
  have parts := toNat_eq_sign_magnitude w
  have := magnitude_lt w
  refine ⟨BitVec.eq_of_toNat_eq ?_, by omega⟩
  rw [BitVec.toNat_ofNat]
  omega

theorem sign_and_magnitude_ofNat {sg n : Nat} (hsg : sg < 2) (hn : n < 2 ^ 31) :
    sign (BitVec.ofNat 32 (sg * 2 ^ 31 + n)) = BitVec.ofNat 1 sg ∧ magnitude (BitVec.ofNat 32 (sg * 2 ^ 31 + n)) = n := by
  have fits : sg * 2 ^ 31 + n < 2 ^ 32 := by omega
  exact sign_and_magnitude_of_toNat hn (by rw [BitVec.toNat_ofNat, Nat.mod_eq_of_lt fits])

/-- Settles O26: with the sign fixed, the tag says the range of the magnitude, which changes at the four bounds. -/
theorem tagChangesAtFourBoundaries : Obligations.TagChangesAtFourBoundaries := by
  unfold Obligations.TagChangesAtFourBoundaries
  intro sg n hsg hn
  obtain ⟨lower_sign, lower⟩ := sign_and_magnitude_ofNat hsg (n := n) (by omega)
  obtain ⟨upper_sign, upper⟩ := sign_and_magnitude_ofNat hsg hn
  rw [classify_eq_rangeTag, classify_eq_rangeTag, lower_sign, upper_sign, lower, upper, ← rangeIndex_ne_succ_iff]
  exact not_congr ⟨eq_of_rangeTag_eq _ _ (rangeIndex_lt _) _ (rangeIndex_lt _), congrArg _⟩

end Sys2Proof.Proofs
end

section
/-! SUPPORT. The block has no exceptions (60_exceptions.md): no number of steps faults or refuses (R110), the one refusal is the
static one of a platform that does not conform (R112), and a power cycle has nothing to lose (R126). -/

namespace Sys2Proof.Proofs

open Sys2Proof.Machine

/-! ### Any number of steps (R110) -/

theorem run_zero {M : Host.Core} (s : M.State) : M.run 0 s = .next s := rfl

/-- One more step at the front of the host's run, when it goes on. -/
theorem run_succ {M : Host.Core} {s s' : M.State} (n : Nat) (hstep : M.step s = .next s') : M.run (n + 1) s = M.run n s' := by
  simp only [Host.Core.run, hstep]

/-- The step a run repeats leaves the input as it is, so every step of it reads the one code. -/
theorem run_eq (n : Nat) (s : State) :
    core.run n s = .next { s with tagsRead := s.tagsRead ++ List.replicate n (tagCode (classify s.valueI)) } := by
  induction n generalizing s with
  | zero =>
    rw [List.replicate_zero, List.append_nil]
    exact run_zero (M := core) s
  | succ n ih =>
    rw [List.replicate_succ, List.append_cons]
    exact (run_succ (M := core) n (step_eq s)).trans (ih _)

/-- Settles O43: a step is a read, and a run's last state is written out by its first, by induction on the steps. -/
theorem noRunEverStops : Obligations.NoRunEverStops := by
  unfold Obligations.NoRunEverStops
  exact ⟨fun s => ⟨s.read, step_eq_read s⟩, fun n s => ⟨_, run_eq n s, rfl, State.tagO_congr rfl, rfl⟩⟩

/-! ### Power (R126) -/

/-- Settles O42: a power cycle is the host driving its word, and the output is a function of that word. -/
theorem powerCycleLosesNothing : Obligations.PowerCycleLosesNothing := by
  unfold Obligations.PowerCycleLosesNothing
  refine ⟨fun s w => ⟨State.powerCycle_valueI s w, ?shown⟩, fun s w => ?step, fun s => ?same⟩
  case shown => rw [State.powerCycle, State.drive_tagO]
  case step => rw [step_eq, State.powerCycle_valueI, State.powerCycle_tagsRead]
  case same => rw [State.powerCycle, State.drive_self]

/-! ### The static refusal (R112) -/

theorem isBinary32_iff (pl : Platform) : Platform.isBinary32 pl = true ↔
    pl.width = 32 ∧ pl.base = 2 ∧ pl.signedZero = true ∧ pl.infinity = true ∧ pl.quietNan = true ∧ pl.signalingNan = true := by
  simp only [Platform.isBinary32, Bool.and_eq_true, beq_iff_eq, and_assoc]

theorem elaborateOn_of_conforming {pl : Platform} (conforms : Platform.isBinary32 pl = true) (p : Params) :
    elaborateOn pl p = elaborate p :=
  if_pos conforms

theorem elaborateOn_of_nonConforming {pl : Platform} (other : ¬ Platform.isBinary32 pl = true) (p : Params) :
    elaborateOn pl p = .error .platformNonConformance :=
  if_neg other

/-- R112: no other failure class exists. -/
theorem buildRefusal_eq (r : BuildRefusal) : r = .platformNonConformance := by
  cases r
  rfl

/-- Settles O52: the platform is looked at first, the sizes only on one that conforms, and there is one refusal to answer. -/
theorem nonConformingPlatformIsRefused : Obligations.NonConformingPlatformIsRefused := by
  unfold Obligations.NonConformingPlatformIsRefused
  intro pl p binary32
  have conforms_iff : Platform.isBinary32 pl = true ↔ binary32 := isBinary32_iff pl
  refine ⟨fun other => ?refused, fun conforms => ?built, fun r _ => buildRefusal_eq r⟩
  case refused => exact elaborateOn_of_nonConforming (mt conforms_iff.mp other) p
  case built => exact elaborateOn_of_conforming (conforms_iff.mpr conforms) p

end Sys2Proof.Proofs
end

section
/-! SUPPORT. Driving the input and its hazards (70_reset_and_hazards.md): the word placed for the next call (R144), words that
arrive in parts (R140), altered (R137) or as bytes (R134), and the block over real time, where the output is held to the input's
code just at the moments at which the input has been held for the delay (R139, R142). -/

namespace Sys2Proof.Proofs

open Sys2Proof.Machine

/-! ### A placed instruction (R144) -/

/-- A word is 32 bits, so none of them is cut (92_eei_decisions.md D14). -/
theorem tableWord_toNat (w : Word) : tableWord 32 w.toNat = w := by
  rw [tableWord, Nat.mod_eq_of_lt w.isLt, BitVec.ofNat_toNat, BitVec.setWidth_eq]

theorem decodeTableWord_toNat (w : Word) : decodeTableWord 32 w.toNat = some (decode w) := by
  obtain ⟨narrow, -⟩ := tableWordsDecodeOnlyAtTheirWidth
  rw [narrow 32 w.toNat le_rfl, ← tableWord, tableWord_toNat]

/-- Settles O36: the placed word is the row's own, and the decoder finds a well-formed row from its word. -/
theorem placedInstructionRunsNext : Obligations.PlacedInstructionRunsNext := by
  unfold Obligations.PlacedInstructionRunsNext
  intro s i wf
  have placed : (s.withFetchWord 32 (encode i).toNat).valueI = encode i := by
    rw [State.withFetchWord_valueI, tableWord_toNat]
  refine ⟨placed, ?step, ?read⟩
  case step => rw [step_eq_exec_decode, placed, decode_encode wf]
  case read => rw [decodeTableWord_toNat, decode_encode wf]

/-! ### A word that arrives in parts (R140) -/

@[simp] theorem driveBits_tagO (s : State) (mask w : Word) :
    (s.driveBits mask w).tagO = tagCode (classify ((s.valueI &&& ~~~mask) ||| (w &&& mask))) := rfl

/-- Each bit of a mixture is the old word's or the new one's, so the other bits' arrival makes it whole. -/
theorem driveBits_rest_valueI (s : State) (mask w : Word) : ((s.driveBits mask w).driveBits (~~~mask) w).valueI = w := by
  apply BitVec.eq_of_getLsbD_eq
  intro i hi
  simp only [State.driveBits_valueI, BitVec.getLsbD_or, BitVec.getLsbD_and, BitVec.getLsbD_not, hi]
  cases mask.getLsbD i <;> simp

/-- Settles O47: driving some bits is driving the mixture, and a step reads the code of the word that the input holds. -/
theorem mixtureIsClassifiedAsItStands : Obligations.MixtureIsClassifiedAsItStands := by
  unfold Obligations.MixtureIsClassifiedAsItStands
  refine ⟨fun s mask w => ⟨State.driveBits_valueI s mask w, driveBits_tagO s mask w, ?step⟩, driveBits_rest_valueI,
    ?ruleExample⟩
  case step => rw [step_eq, State.driveBits_valueI, State.driveBits_tagsRead]
  case ruleExample =>
    intro s old
    rw [State.driveBits_valueI, driveBits_tagO, old]
    decide

/-! ### An altered copy of a NaN (R137) -/

theorem isNanWord_iff_fields (w : Word) : isNanWord w = true ↔ exponent w = 255#8 ∧ mantissa w ≠ 0#23 := by
  rw [isNanWord, Bool.and_eq_true, beq_iff_eq, bne_iff_ne]

theorem classify_of_isNanWord {w : Word} (nan : isNanWord w = true) : classify w = .notANumber := by
  obtain ⟨ones, payload⟩ := (isNanWord_iff_fields w).mp nan
  exact classify_of_nan ones payload

theorem hostCopies_of_nan {w : Word} (nan : isNanWord w = true) (w' : Word) : hostCopies w w' ↔ isNanWord w' = true := by
  rw [hostCopies, if_pos nan]

theorem hostCopies_of_not_nan {w : Word} (other : ¬ isNanWord w = true) (w' : Word) : hostCopies w w' ↔ w' = w := by
  rw [hostCopies, if_neg other]

theorem exponent_or (w v : Word) : exponent (w ||| v) = exponent w ||| exponent v := by
  simp only [exponent_eq_slice, BitVec.extractLsb'_or]

theorem mantissa_or (w v : Word) : mantissa (w ||| v) = mantissa w ||| mantissa v := by
  simp only [mantissa_eq_slice, BitVec.extractLsb'_or]

/-- The mask of bits 31..23 is the sign and exponent fields' (30_encoding.md R50). -/
theorem exponent_eq_zero_of_masked {m : Word} (masked : m &&& 0xFF800000#32 = 0#32) : exponent m = 0#8 := by
  have mask : 0xFF800000#32 = pack 1#1 255#8 0#23 := by decide
  have zero : 0#32 = pack 0#1 0#8 0#23 := by decide
  rw [← pack_fields m, mask, zero, pack_and, pack_inj, and_ones8] at masked
  obtain ⟨-, exponent_zero, -⟩ := masked
  exact exponent_zero

/-- Setting bits cannot clear a payload, and bits of the mantissa leave the exponent all ones. -/
theorem isNanWord_or_mantissa_bits {w m : Word} (nan : isNanWord w = true) (masked : m &&& 0xFF800000#32 = 0#32) :
    isNanWord (w ||| m) = true := by
  obtain ⟨ones, payload⟩ := (isNanWord_iff_fields w).mp nan
  refine (isNanWord_iff_fields _).mpr ⟨?ones, ?payload⟩
  case ones => rw [exponent_or, exponent_eq_zero_of_masked masked, BitVec.or_zero, ones]
  case payload =>
    rw [mantissa_or, ne_eq, BitVec.or_eq_zero_iff]
    exact fun ⟨cleared, _⟩ => payload cleared

/-- Settles O48: a NaN's copy is a NaN, any other word's is itself, and the tag of every NaN word is NotANumber. -/
theorem alteredNanCopyKeepsTheTag : Obligations.AlteredNanCopyKeepsTheTag := by
  unfold Obligations.AlteredNanCopyKeepsTheTag
  refine ⟨fun w w' copies => ?tag, fun w nan m masked => ?set⟩
  case tag =>
    by_cases nan : isNanWord w = true
    · rw [classify_of_isNanWord nan, classify_of_isNanWord ((hostCopies_of_nan nan w').mp copies)]
    · rw [(hostCopies_of_not_nan nan w').mp copies]
  case set => exact (hostCopies_of_nan nan _).mpr (isNanWord_or_mantissa_bits nan masked)

/-! ### A word assembled from bytes (R134) -/

theorem assembleBytes_toNat (b3 b2 b1 b0 : Byte) :
    (assembleBytes b3 b2 b1 b0).toNat = b3.toNat * 2 ^ 24 + b2.toNat * 2 ^ 16 + b1.toNat * 2 ^ 8 + b0.toNat := by
  rw [assembleBytes, BitVec.toNat_append, BitVec.toNat_append, BitVec.toNat_append, ← Nat.shiftLeft_add_eq_or_of_lt b0.isLt,
    ← Nat.shiftLeft_add_eq_or_of_lt b1.isLt, ← Nat.shiftLeft_add_eq_or_of_lt b2.isLt]
  simp only [Nat.shiftLeft_eq]
  omega

/-- Byte `k` of a word, counted from the least significant, by the word's value. -/
theorem toNat_byte (w : Word) (k : Nat) : (w.extractLsb' k 8).toNat = w.toNat / 2 ^ k % 2 ^ 8 := by
  rw [BitVec.extractLsb'_toNat, Nat.shiftRight_eq_div_pow]

/-- A word is its four bytes, the most significant first. -/
theorem assembleBytes_bytes (w : Word) :
    assembleBytes (w.extractLsb' 24 8) (w.extractLsb' 16 8) (w.extractLsb' 8 8) (w.extractLsb' 0 8) = w := by
  have := w.isLt
  apply BitVec.eq_of_toNat_eq
  simp only [assembleBytes_toNat, toNat_byte]
  omega

theorem reverseBytes_assembleBytes (b3 b2 b1 b0 : Byte) :
    reverseBytes (assembleBytes b3 b2 b1 b0) = assembleBytes b0 b1 b2 b3 := by
  have := b3.isLt
  have := b2.isLt
  have := b1.isLt
  have := b0.isLt
  apply BitVec.eq_of_toNat_eq
  simp only [reverseBytes, assembleBytes_toNat, toNat_byte]
  omega

/-- Settles O49: the bytes' weighted sum is also the fields' (30_encoding.md R51), and the fields' parts of it are unique. -/
theorem assembledBytesLandOnTheFields : Obligations.AssembledBytesLandOnTheFields := by
  unfold Obligations.AssembledBytesLandOnTheFields
  refine ⟨fun b3 b2 b1 b0 => ⟨assembleBytes_toNat b3 b2 b1 b0, ?fields⟩, fun w => ?twice⟩
  case fields =>
    have bytes := assembleBytes_toNat b3 b2 b1 b0
    have fields := toNat_eq_fields (assembleBytes b3 b2 b1 b0)
    omega
  case twice => rw [← assembleBytes_bytes w, reverseBytes_assembleBytes, reverseBytes_assembleBytes]

/-! ### The block over real time (R139, R142) -/

/-- A word present from `t₀` on has been held for `tPd` once `tPd` has passed. -/
theorem heldFor_of_held_from {tPd t₀ t : ℝ} {valueI : ℝ → Word} {w : Word} (delay : 0 < tPd)
    (held : ∀ u, t₀ ≤ u → valueI u = w) (later : t₀ + tPd ≤ t) : HeldFor valueI tPd t := by
  intro u from_u _
  rw [held u (by linarith), held t (by linarith)]

open Classical in
/-- The output that shows the code of a held input's tag, and at every other moment the code given for that moment. -/
noncomputable def outputWith (tPd : ℝ) (valueI : ℝ → Word) (codes : ℝ → TagCode) (t : ℝ) : TagCode :=
  if HeldFor valueI tPd t then tagCode (classify (valueI t)) else codes t

theorem outputWith_of_not_heldFor {tPd t : ℝ} {valueI : ℝ → Word} (codes : ℝ → TagCode) (unsettled : ¬ HeldFor valueI tPd t) :
    outputWith tPd valueI codes t = codes t :=
  if_neg unsettled

/-- A block may show it, whatever the codes (93_implementation_defined.md U3). -/
theorem timedBlock_outputWith {tPd : ℝ} (delay : 0 < tPd) (valueI : ℝ → Word) (codes : ℝ → TagCode) :
    TimedBlock tPd valueI (outputWith tPd valueI codes) :=
  ⟨delay, fun _ held => if_pos held⟩

/-- Settles O54: from the delay after `t₀` on the input has been held, and no tag's code is 7. -/
theorem heldWordShowsItsCodeFromThenOn : Obligations.HeldWordShowsItsCodeFromThenOn := by
  unfold Obligations.HeldWordShowsItsCodeFromThenOn
  rintro tPd valueI tagO w t₀ ⟨delay, shows_code⟩ held t later
  have present : valueI t = w := held t (by linarith)
  have code : tagO t = tagCode (classify w) := by
    rw [shows_code t (heldFor_of_held_from delay held later), present]
  exact ⟨code, code ▸ tagCode_ne_seven (classify w)⟩

/-- Settles O46: the output that shows the given codes wherever the input has not been held is one a block may show. -/
theorem unsettledOutputIsFreeAtEveryMoment : Obligations.UnsettledOutputIsFreeAtEveryMoment := by
  unfold Obligations.UnsettledOutputIsFreeAtEveryMoment
  exact fun tPd valueI codes delay =>
    ⟨outputWith tPd valueI codes, timedBlock_outputWith delay valueI codes, fun _ => outputWith_of_not_heldFor codes⟩

/-- Settles O55: the guarantee is the timed block's own, and an input that differed within the delay has not been held, so the
output is free there. -/
theorem onlyHeldInputsAreGuaranteed : Obligations.OnlyHeldInputsAreGuaranteed := by
  unfold Obligations.OnlyHeldInputsAreGuaranteed
  refine ⟨fun tPd valueI tagO t block held => ?guaranteed, fun tPd valueI t u c delay start stop differs => ?free⟩
  case guaranteed =>
    obtain ⟨-, shows_code⟩ := block
    exact shows_code t held
  case free =>
    have unsettled : ¬ HeldFor valueI tPd t := fun held => differs (held u start stop)
    obtain ⟨tagO, block, free⟩ := unsettledOutputIsFreeAtEveryMoment tPd valueI (fun _ => c) delay
    exact ⟨tagO, block, free t unsettled⟩

end Sys2Proof.Proofs
end
